-- ==== Sys2Proof/Word.lean ====
section
/-! DEFINITION. The word types of the block: it moves whole bytes (20_memory.md R54) and returns an
integer status (10_state.md R23). -/

namespace Sys2Proof

/-- One byte: the width of every operand, every command byte and every buffer access (10_state.md R21,
20_memory.md R54). -/
abbrev Byte := BitVec 8

/-- The result of an operation or of a bus write: an integer with a distinguished 0 for success
(10_state.md R23, 92_eei_decisions.md D22). -/
abbrev Status := Int

end Sys2Proof
end

