-- ==== Sys2Proof/Config.lean ====
section
/-! DEFINITION. What an instance of the block fixes: the Device Descriptor (00_scope.md R7, 10_state.md R25),
the named parameters the source gives no value for (00_scope.md R9), and the free answers of the bus driver
(00_scope.md R14). -/

namespace Sys2Proof

/-- The transport kinds of the Device Descriptor (10_state.md R25): I2C, 4-wire SPI, and the 3-wire SPI
variant that the block refuses with a status. -/
inductive Transport where
  | i2c
  | spi4
  | spi3
deriving DecidableEq, Repr

/-- The electrical level of a pin (00_scope.md R14). -/
inductive Level where
  | low
  | high
deriving DecidableEq, Repr

/-- CMD_GROUPING (00_scope.md R9, 40_transport_encoder.md R106). -/
inductive CmdGrouping where
  | perByte
  | perCommand
deriving DecidableEq, Repr

/-- The tag every delivered byte carries (00_scope.md R12). -/
inductive Tag where
  | cmd
  | data
deriving DecidableEq, Repr

/-- One element of the logical stream (00_scope.md R12). -/
abbrev TaggedByte := Tag × Byte

/-- The Device Descriptor (00_scope.md R7, 10_state.md R25). Its geometry is checked where a request is
launched, not here. A pin identifier is opaque in the spec: that it is a natural number is a DESIGN CHOICE (log
entry 32). -/
structure Descriptor where
  transport : Transport
  i2cAddr : BitVec 7
  csPin : Nat
  dcPin : Nat
  width : Nat
  height : Nat
deriving DecidableEq, Repr

/-- The parameters of 00_scope.md R9. They are fixed for one instance and the machine only reads them. -/
structure Params where
  /-- MAX_CHUNK of the I2C transport, at least 1 (92_eei_decisions.md D10). -/
  maxChunkI2c : Nat
  /-- MAX_CHUNK of the 4-wire SPI transport, at least 1 (92_eei_decisions.md D10). -/
  maxChunkSpi : Nat
  cmdGrouping : CmdGrouping
  oscDefault : Byte
  chargePumpInit : Bool
  comPinsSeq : Byte
  comPinsAlt : Byte
  contrastDefault : Byte
  prechargeDefault : Byte
  vcomhDefault : Byte
  /-- ERR_UNSUPPORTED, not 0 (92_eei_decisions.md D14). -/
  errUnsupported : Status
  /-- CS_ACTIVE_LEVEL: the level that means "asserted" (92_eei_decisions.md D9). -/
  csActiveLevel : Level
deriving DecidableEq, Repr

/-- The answer of the bus driver to one bus write (00_scope.md R14): its status, and, for a failing write, how
many of the write's bytes had reached the target (92_eei_decisions.md D23: any prefix). -/
structure BusAnswer where
  status : Status
  delivered : Nat
deriving DecidableEq, Repr, Inhabited

/-- The bus driver's answer to write number `n`, where the answers in the state have run out: a FREE VALUE
(93_implementation_defined.md U6, U9: a draw under no law; log entries 6 and 7). It has no body. -/
opaque Config.busAnswer : Nat → BusAnswer

end Sys2Proof
end

