-- ==== Sys2Proof/Syntax.lean ====
section
/-! DEFINITION. The 21 operations (00_scope.md R2, 30_encoding.md R95) as the inductive Instr, and the request
that carries one to the block (10_state.md R21, 30_encoding.md R97). -/

namespace Sys2Proof

/-- A reference to a caller-owned buffer (10_state.md R21, 20_memory.md R50): where its first byte lies in the
caller's memory and how many bytes it holds. A byte of the buffer is named by base plus offset
(45_sequencing_memory_system_classes.md R254). -/
structure BufRef where
  base : Nat
  len : Nat
deriving DecidableEq, Repr

/-- The 21 operations, in the order of the opcode table (30_encoding.md R95). Numeric operands are the 8 bits of
`req.a` and `req.b`; a Boolean operand is the same byte, true iff it is not 0 (30_encoding.md R85). A buffer
operand is a reference, or none for null. -/
inductive Instr where
  /-- R107: issue a raw command byte. -/
  | rawCmd (byte : Byte)
  /-- R150: run full init. -/
  | init
  /-- R160: load a local frame buffer, or clear when the buffer is null. -/
  | loadFb (buf : Option BufRef)
  /-- R175: convert an XBM bitmap into a frame buffer and load it. -/
  | loadXbm (xbm fb : Option BufRef)
  /-- R121. -/
  | displayOn (on : Byte)
  /-- R122. -/
  | setStartLine (start : Byte)
  /-- R123. -/
  | setOffset (offset : Byte)
  /-- R124. -/
  | setChargePump (enabled : Byte)
  /-- R125. -/
  | setAddrMode (mode : Byte)
  /-- R126. -/
  | setSegRemap (on : Byte)
  /-- R127. -/
  | setScanDir (backward : Byte)
  /-- R128. -/
  | setComPins (config : Byte)
  /-- R129. -/
  | setContrast (contrast : Byte)
  /-- R130. -/
  | setInversion (inverse : Byte)
  /-- R131. -/
  | setOscFreq (oscFreq : Byte)
  /-- R132. -/
  | setMuxRatio (ratio : Byte)
  /-- R133. -/
  | setColWindow (start stop : Byte)
  /-- R134. -/
  | setPageWindow (start stop : Byte)
  /-- R135. -/
  | setPrecharge (prchrg : Byte)
  /-- R136. -/
  | setVcomh (lvl : Byte)
  /-- R137. -/
  | setWholeOn (force : Byte)
deriving DecidableEq, Repr

/-- A request (10_state.md R21): the selector (30_encoding.md R97), two numeric operands, the null flag of LOAD_FB
and the two buffer references. -/
structure Request where
  sel : BitVec 5
  a : Byte
  b : Byte
  fbNull : Bool
  fb : Option BufRef
  xbm : Option BufRef
deriving DecidableEq, Repr

/-- A request with the selector `sel`, every operand zero and no buffer. -/
def Request.plain (sel : BitVec 5) : Request :=
  { sel := sel, a := 0, b := 0, fbNull := false, fb := none, xbm := none }

end Sys2Proof
end

