-- ==== Sys2Proof/Machine/State.lean ====
section
/-! DEFINITION. The state of the block as plain data (10_state.md), the events of the wire trace
(00_scope.md R14), why a step can stop, and the state after reset (10_state.md R32). -/

namespace Sys2Proof.Machine

/-- The rows of the init table (42_init_sequencer.md R150): steps 1 to 15, step 7 in its two commands. -/
inductive InitStep where
  | s1 | s2 | s3 | s4 | s5 | s6 | s7a | s7b | s8 | s9 | s10 | s11 | s12 | s13 | s14 | s15
deriving DecidableEq, Repr

/-- The three command phases of LOAD_FB (43_frame_buffer_transfer.md R160). -/
inductive WinPhase where
  | col
  | page
  | mode
deriving DecidableEq, Repr

/-- How far the chip-select frame of one call of TxSend has come (40_transport_encoder.md R102): which of its lines
were executed. -/
inductive FrameLine where
  /-- The data/command pin is driven. -/
  | driven
  /-- The chip select is asserted too. -/
  | selected
  /-- The bytes were written too, with this status. The chip select is still asserted. -/
  | written (st : Status)
deriving DecidableEq, Repr

/-- The sequencer position (10_state.md R22), the place of a program counter. The last constructor is the model's
refinement of R22 by the lines of R102 (DESIGN CHOICE, log entry 10). -/
inductive Pos where
  /-- No operation in progress. -/
  | idle
  /-- The next command byte of the current sequence is byte `k`. -/
  | cmd (k : Nat)
  /-- Byte `k` of a row of the init table. -/
  | init (step : InitStep) (k : Nat)
  /-- Byte `k` of a command of LOAD_FB. -/
  | win (phase : WinPhase) (k : Nat)
  /-- The index of the next data byte of LOAD_FB. -/
  | stream (i : Nat)
  /-- The converter's counters: page, column, bit. -/
  | xbm (p x b : Nat)
  /-- Inside the chip-select frame of the transfer made at position `p`. -/
  | frame (p : Pos) (line : FrameLine)
deriving DecidableEq, Repr

/-- The chip-select pin (10_state.md R24). -/
inductive ChipSelect where
  | asserted
  | deasserted
deriving DecidableEq, Repr

/-- The data/command pin (10_state.md R24); unknown before the first transfer. -/
inductive DataCommand where
  | low
  | high
  | unknown
deriving DecidableEq, Repr

/-- One event of the wire trace (00_scope.md R14). -/
inductive Event where
  /-- A write transaction to a 7-bit address, with the status the driver returned. -/
  | i2c (addr : BitVec 7) (payload : List Byte) (status : Status)
  /-- Bytes clocked out on the SPI bus, with the status the driver returned. -/
  | spi (bytes : List Byte) (status : Status)
  /-- A pin driven to a level. -/
  | pin (id : Nat) (level : Level)
deriving DecidableEq, Repr

/-- What the world outside presents to the block, one thing at a time (log entry 22). -/
inductive HostEvent where
  /-- A request for one operation (10_state.md R21), which runs to its end in one step. -/
  | request (r : Request)
  /-- The same request, whose operation runs one position a step, so that a reset event can come in the middle of
  it (70_reset_and_hazards.md R220, log entry 10). -/
  | start (r : Request)
  /-- Nothing is presented for one step: a running operation moves on by one position, an idle block waits. -/
  | pass
  /-- The reset event (70_reset_and_hazards.md R220). -/
  | reset
  /-- The host supplies a Device Descriptor (70_reset_and_hazards.md R221, R235). -/
  | configure (d : Descriptor)
  /-- The caller stores one byte in its own memory (20_memory.md R50). -/
  | store (addr : Nat) (v : Byte)
deriving DecidableEq, Repr

/-- The caller's memory, in which the buffers lie: address and byte, addresses rising, no byte that an unlisted
address reads as (20_memory.md R50, R57; log entries 2 and 3). -/
abbrev Memory := List Host.Cell

/-- The state of the machine. -/
structure State where
  /-- The Device Descriptor (R25). -/
  cfg : Descriptor
  /-- The parameters of the instance (00_scope.md R9). -/
  params : Params
  /-- The latched request (R21). -/
  req : Request
  /-- The sequencer position (R22). -/
  pos : Pos
  /-- The result of the last operation that ended, none before the first (R23, R32). -/
  status : Option Status
  /-- The chip-select pin (R24). -/
  cs : ChipSelect
  /-- The data/command pin (R24). -/
  dc : DataCommand
  /-- The converter's 8-bit accumulator (R27). -/
  acc : Byte
  /-- The caller's memory (R28, 20_memory.md R50). -/
  mem : Memory
  /-- What the host presents, the next thing first. -/
  port : List HostEvent
  /-- The bus driver's coming answers, the next one first (00_scope.md R14). -/
  busIn : List BusAnswer
  /-- How many bus writes have been made: the counter with which free answers are drawn. -/
  busCount : Nat
  /-- The wire trace so far, oldest event first (00_scope.md R14). -/
  trace : List Event
  /-- The logical stream so far: the tagged bytes that reached the target (00_scope.md R12). -/
  stream : List TaggedByte
deriving DecidableEq, Repr

/-- Why the machine stops with a fault. -/
inductive Fault where
  /-- Raised by `tick` alone: the sequencer stands at a position that the latched operation does not have. The
  spec gives such a state no meaning and no run reaches it. SAFE: the machine stops. -/
  | strayPosition
deriving DecidableEq, Repr

/-- Why an operation is refused: it gets no step. -/
inductive Refusal where
  /-- Raised by `exec` for an instruction with no meaning yet. SAFE. -/
  | notModelled (mnemonic : String)
  /-- Raised by every operation and by `step`: something is presented while an operation is in progress
  (60_exceptions.md R208, 92_eei_decisions.md D20). SAFE. -/
  | busy
  /-- Raised by every operation: the geometry is outside the invariant (00_scope.md R7,
  92_eei_decisions.md D15). SAFE. -/
  | illegalDescriptor
  /-- Raised by every operation: a parameter is outside its domain, MAX_CHUNK below 1 or ERR_UNSUPPORTED zero
  (00_scope.md R9). SAFE. -/
  | illegalParameters
  /-- Raised by LOAD_XBM: a buffer is null (44_xbm_converter.md R181, 92_eei_decisions.md D18). SAFE. -/
  | nullBuffer
  /-- Raised by LOAD_FB and LOAD_XBM: a buffer is too short (20_memory.md R55, 44_xbm_converter.md R181,
  92_eei_decisions.md D18). SAFE. -/
  | shortBuffer
  /-- Raised by LOAD_XBM: the two buffers overlap (44_xbm_converter.md R181, 92_eei_decisions.md D18). SAFE. -/
  | overlappingBuffers
  /-- Raised by `step`: the request's selector is 21 to 31 (30_encoding.md R97). SAFE. -/
  | noSuchOperation
  /-- Raised by `step`: a LOAD_FB that is not marked null names no buffer (60_exceptions.md R194). SAFE. -/
  | missingBuffer
deriving DecidableEq, Repr

/-- How a step or an operation ends. -/
abbrev Result := Host.Outcome State Fault Refusal

/-- The descriptor in `State.reset`. DESIGN CHOICE (log entry 4): the spec leaves it to the host, so it is the
first transport, address 0, two different pins and the geometry of the spec's first program. UNSAFE. -/
def descriptorAtReset : Descriptor :=
  { transport := .i2c, i2cAddr := 0, csPin := 0, dcPin := 1, width := 128, height := 64 }

/-- The parameters in `State.reset`: the values the spec suggests, PRESUMED or DESIGN CHOICE (log entry 5).
UNSAFE where a statement rests on them; none does. -/
def paramsAtReset : Params :=
  { maxChunkI2c := 16, maxChunkSpi := 64, cmdGrouping := .perByte, oscDefault := 0x80, chargePumpInit := true,
    comPinsSeq := 0x02, comPinsAlt := 0x12, contrastDefault := 0x7F, prechargeDefault := 0x22,
    vcomhDefault := 0x20, errUnsupported := 1, csActiveLevel := .low }

/-- The machine right after reset (10_state.md R32). -/
def State.reset : State :=
  { cfg := descriptorAtReset
    params := paramsAtReset
    req := Request.plain 0
    pos := .idle
    status := none
    cs := .deasserted
    dc := .unknown
    acc := 0
    mem := []
    port := []
    busIn := []
    busCount := 0
    trace := []
    stream := [] }

end Sys2Proof.Machine
end

