-- ==== Sys2Proof/Machine/Flags.lean ====
section
/-! DEFINITION. The block has no condition codes (10_state.md R23). What takes their place is computed here: the
status law, and what a tag becomes on the wire: a control byte or a pin level. -/

namespace Sys2Proof.Machine

/-- A status means success exactly when it is 0 (10_state.md R23). -/
def succeeded (st : Status) : Bool := st == 0

/-- The control byte that opens an I2C transaction (30_encoding.md R86). -/
def controlByte : Tag → Byte
  | .cmd => 0x00
  | .data => 0x40

/-- The level of the data/command pin for a tag (30_encoding.md R87). -/
def tagLevel : Tag → Level
  | .cmd => .low
  | .data => .high

/-- The data/command pin when it is driven to a level (10_state.md R24). -/
def DataCommand.ofLevel : Level → DataCommand
  | .low => .low
  | .high => .high

/-- The other level of a pin. -/
def otherLevel : Level → Level
  | .low => .high
  | .high => .low

/-- The electrical level of the chip-select pin: CS_ACTIVE_LEVEL means asserted (00_scope.md R9, 10_state.md R24). -/
def chipSelectLevel (p : Params) : ChipSelect → Level
  | .asserted => p.csActiveLevel
  | .deasserted => otherLevel p.csActiveLevel

end Sys2Proof.Machine
end

