-- ==== Sys2Proof/Machine/Ops.lean ====
section
/-! DEFINITION. The named operations over memory, pins and bus: the byte store of the caller's memory, the
environment primitives (00_scope.md R14), the Transport Encoder TxSend (40_transport_encoder.md R100 to R105),
CmdSeq (R106), the end of an operation in success or failure (60_exceptions.md R197, R199), the run of a list of
transfers with abort at the first failure, the launch checks, and the reset event (70_reset_and_hazards.md R220). -/

namespace Sys2Proof.Machine

/-! ## The caller's memory -/

/-- What an address that is not listed reads as. DESIGN CHOICE (log entry 3): the spec leaves the buffers'
contents to the caller. UNSAFE. -/
def Memory.unlisted : Byte := 0x00

/-- Read one byte. -/
def Memory.read : Memory → Nat → Byte
  | [], _ => Memory.unlisted
  | (a, v) :: rest, x => if a = x then v else Memory.read rest x

/-- Write one byte, keeping the canonical form. -/
def Memory.write : Memory → Nat → Byte → Memory
  | [], x, v => if v = Memory.unlisted then [] else [(x, v)]
  | (a, w) :: rest, x, v =>
    if x < a then
      if v = Memory.unlisted then (a, w) :: rest else (x, v) :: (a, w) :: rest
    else if x = a then
      if v = Memory.unlisted then rest else (x, v) :: rest
    else (a, w) :: Memory.write rest x v

/-- The canonical form: addresses strictly rising, and no entry that equals what an unlisted address reads as. -/
abbrev Memory.wf (m : Memory) : Prop :=
  m.Pairwise (fun c d => c.1 < d.1) ∧ ∀ c ∈ m, c.2 ≠ Memory.unlisted

/-- MemRead(space, addr, 1): the byte at an offset of a buffer (00_scope.md R11,
45_sequencing_memory_system_classes.md R254). -/
def State.memRead (s : State) (buf : BufRef) (offset : Nat) : Byte := Memory.read s.mem (buf.base + offset)

/-- MemWrite(FB, addr, 1, v): write the byte at an offset of a buffer (00_scope.md R11). -/
def State.memWrite (s : State) (buf : BufRef) (offset : Nat) (v : Byte) : State :=
  { s with mem := Memory.write s.mem (buf.base + offset) v }

/-! ## Pins and bus: the environment primitives -/

/-- Append one event to the wire trace. -/
def State.emit (s : State) (e : Event) : State := { s with trace := s.trace ++ [e] }

/-- PinSet(cfg.dc_pin, level): drive the data/command pin (00_scope.md R14). It cannot fail. -/
def State.driveDc (s : State) (level : Level) : State :=
  { s.emit (.pin s.cfg.dcPin level) with dc := DataCommand.ofLevel level }

/-- PinSet(cfg.cs_pin, …): drive the chip-select pin (00_scope.md R14). It cannot fail. -/
def State.driveCs (s : State) (v : ChipSelect) : State :=
  { s.emit (.pin s.cfg.csPin (chipSelectLevel s.params v)) with cs := v }

/-- The answer the bus driver will give to the write `k` writes from now: the one in the state, or past the end
of those a free value (00_scope.md R14). -/
def State.answerAt (s : State) (k : Nat) : BusAnswer :=
  match s.busIn[k]? with
  | some a => a
  | none => Config.busAnswer (s.busCount + k)

/-- The tagged bytes of a write that reached the target: all of an accepted write, some prefix of a failing one
(92_eei_decisions.md D23). -/
def reachedTarget (a : BusAnswer) (tag : Tag) (bytes : List Byte) : List TaggedByte :=
  (if succeeded a.status then bytes else bytes.take a.delivered).map fun v => (tag, v)

/-- One bus write, BusI2cWrite or BusSpiWrite by the event it makes (00_scope.md R14): the driver answers, the
event is appended with the answer's status, and the bytes that reached the target join the logical stream. -/
def State.busWrite (s : State) (event : Status → Event) (tag : Tag) (bytes : List Byte) : Status × State :=
  let a := s.answerAt 0
  (a.status,
   { s with
      busIn := s.busIn.tail
      busCount := s.busCount + 1
      trace := s.trace ++ [event a.status]
      stream := s.stream ++ reachedTarget a tag bytes })

/-! ## The Transport Encoder -/

/-- TxSend under I2C: one transaction, opened by the control byte (40_transport_encoder.md R101). -/
def txI2c (tag : Tag) (bytes : List Byte) (s : State) : Status × State :=
  s.busWrite (.i2c s.cfg.i2cAddr (controlByte tag :: bytes)) tag bytes

/-- TxSend under 4-wire SPI: data/command pin, chip select, the bytes, chip select released whatever the status
(40_transport_encoder.md R102). -/
def txSpi4 (tag : Tag) (bytes : List Byte) (s : State) : Status × State :=
  match ((s.driveDc (tagLevel tag)).driveCs .asserted).busWrite (.spi bytes) tag bytes with
  | (st, s') => (st, s'.driveCs .deasserted)

/-- TxSend under 3-wire SPI: Unsupported, with no event and no pin write (40_transport_encoder.md R103). -/
def txSpi3 (s : State) : Status × State := (s.params.errUnsupported, s)

/-- TxSend: one logical transfer, dispatched on the transport (40_transport_encoder.md R100). -/
def txSend (tag : Tag) (bytes : List Byte) (s : State) : Status × State :=
  match s.cfg.transport with
  | .i2c => txI2c tag bytes s
  | .spi4 => txSpi4 tag bytes s
  | .spi3 => txSpi3 s

/-! ## The end of an operation -/

/-- The operation fails with a non-zero status (60_exceptions.md R197): the position becomes Idle and the status
is delivered. The chip select was released inside TxSend. Nothing is rolled back (R198). -/
def State.abort (s : State) (st : Status) : State := { s with pos := .idle, status := some st }

/-- The operation succeeds: status 0 (10_state.md R23). The block then accepts the next request, exactly as it does
after a failure (60_exceptions.md R199). -/
def State.succeed (s : State) : State := { s with pos := .idle, status := some 0 }

/-! ## Sequences of transfers -/

/-- One call of TxSend inside an operation, and the sequencer position it is made at. -/
structure Transfer where
  pos : Pos
  tag : Tag
  bytes : List Byte
deriving DecidableEq, Repr

/-- CmdSeq (40_transport_encoder.md R106) as the transfers it makes: one for each byte, or one for the whole
sequence. `place k` is the position of byte `k`. -/
def cmdSeq (grouping : CmdGrouping) (place : Nat → Pos) (bytes : List Byte) : List Transfer :=
  match grouping with
  | .perByte => bytes.mapIdx fun k v => { pos := place k, tag := .cmd, bytes := [v] }
  | .perCommand => [{ pos := place 0, tag := .cmd, bytes := bytes }]

/-- The operation's `try` (00_scope.md R13): make the transfers in order, abort at the first one whose status is
not 0, and succeed when all were accepted. -/
def runTransfers : List Transfer → State → State
  | [], s => s.succeed
  | t :: ts, s =>
    match txSend t.tag t.bytes { s with pos := t.pos } with
    | (st, s') => if succeeded st then runTransfers ts s' else s'.abort st

/-! ## Launching an operation -/

/-- The geometry is one the invariant allows (00_scope.md R7). -/
def legalGeometry (d : Descriptor) : Bool :=
  (d.width == 96 || d.width == 128) && (d.height == 16 || d.height == 32 || d.height == 64)

/-- The parameters lie in their domains (00_scope.md R9). -/
def legalParams (p : Params) : Bool := 1 ≤ p.maxChunkI2c && 1 ≤ p.maxChunkSpi && p.errUnsupported != 0

/-- What makes the block refuse every operation: an illegal parameter or geometry (00_scope.md R7, R9). -/
def instanceCheck (s : State) : Option Refusal :=
  if !legalParams s.params then some .illegalParameters
  else if !legalGeometry s.cfg then some .illegalDescriptor
  else none

/-- Start an operation when the block is idle and nothing refuses it; `check` is the operation's own check of its
buffers. The operation runs to its end in one step (log entry 10). -/
def launch (check : Option Refusal) (operation : State → State) (s : State) : Result :=
  if s.pos ≠ .idle then .refused .busy
  else
    match (instanceCheck s).or check with
    | some r => .refused r
    | none => .next (operation s)

/-- An operation that is one command sequence: RAW_CMD and the 17 settings (41_command_protocol.md R120). -/
def sendCommand (bytes : List Byte) (s : State) : Result :=
  launch none (runTransfers (cmdSeq s.params.cmdGrouping .cmd bytes)) s

/-! ## Reset -/

/-- The reset event (70_reset_and_hazards.md R220, 10_state.md R32): an operation in progress is abandoned with no
status, the chip select is released, the data/command pin is not driven. Descriptor, parameters and the caller's
memory stay; nothing is sent. The latched request and the accumulator are unspecified and are left as they
were (log entry 17). -/
def State.resetEvent (s : State) : State :=
  { s with pos := .idle, status := none, cs := .deasserted, dc := .unknown }

end Sys2Proof.Machine
end

