-- ==== Sys2Proof/WellFormed.lean ====
section
/-! DEFINITION. Well-formed instructions: the operand is one the command encoding carries unchanged
(30_encoding.md R81 to R85), and the buffers of LOAD_XBM exist and do not overlap (44_xbm_converter.md R181).
An instruction whose numeric operand is not well-formed still runs: the mask and the truth rule reduce it
(30_encoding.md R90). -/

namespace Sys2Proof

/-- A Boolean operand in the form the encodings carry: 0 or 1 (30_encoding.md R85). -/
def Byte.isBit (v : Byte) : Bool := v == 0 || v == 1

/-- An operand the mask 0x3F leaves unchanged (30_encoding.md R84). -/
def Byte.fits6 (v : Byte) : Bool := v &&& 0x3F == v

/-- An operand the mask 0x03 leaves unchanged (30_encoding.md R84). -/
def Byte.fits2 (v : Byte) : Bool := v &&& 0x03 == v

/-- Two buffers share no byte of the caller's memory (44_xbm_converter.md R181). -/
def BufRef.disjoint (x y : BufRef) : Bool := x.base + x.len ≤ y.base || y.base + y.len ≤ x.base

/-- The well-formed instructions. -/
def Instr.wellFormed : Instr → Bool
  | .rawCmd _ => true
  | .init => true
  | .loadFb _ => true
  | .loadXbm (some x) (some f) => BufRef.disjoint x f
  | .loadXbm _ _ => false
  | .displayOn on => Byte.isBit on
  | .setStartLine start => Byte.fits6 start
  | .setOffset offset => Byte.fits6 offset
  | .setChargePump enabled => Byte.isBit enabled
  | .setAddrMode mode => Byte.fits2 mode
  | .setSegRemap on => Byte.isBit on
  | .setScanDir backward => Byte.isBit backward
  | .setComPins _ => true
  | .setContrast _ => true
  | .setInversion inverse => Byte.isBit inverse
  | .setOscFreq _ => true
  | .setMuxRatio ratio => Byte.fits6 ratio
  | .setColWindow _ _ => true
  | .setPageWindow _ _ => true
  | .setPrecharge _ => true
  | .setVcomh _ => true
  | .setWholeOn force => Byte.isBit force

end Sys2Proof
end

