-- ==== Sys2Proof/Machine/Operands.lean ====
section
/-! DEFINITION. Every operand form: the truth rule and the masks (30_encoding.md R84, R85), the command bytes of
each setting (41_command_protocol.md R121 to R137), the quantities derived from the geometry (00_scope.md R8),
and the buffer operands with their checks (44_xbm_converter.md R181). -/

namespace Sys2Proof.Machine

/-! ## Numeric and Boolean operands -/

/-- A Boolean operand is true iff it is not 0 (30_encoding.md R85). -/
def isTrue (v : Byte) : Bool := v != 0

/-- The operand as a byte: `c ? x : y` (00_scope.md R10). -/
def select (v : Byte) (ifTrue ifFalse : Byte) : Byte := if isTrue v then ifTrue else ifFalse

/-- The mask 0x3F of start line, offset and multiplex ratio (30_encoding.md R84). -/
def mask6 (v : Byte) : Byte := v &&& 0x3F

/-- The mask 0x03 of the addressing mode (30_encoding.md R84). -/
def mask2 (v : Byte) : Byte := v &&& 0x03

/-! ## The command bytes of the settings, from the pseudocode of each rule -/

/-- R107. -/
def rawCmdBytes (byte : Byte) : List Byte := [byte]

/-- R121. -/
def displayOnBytes (on : Byte) : List Byte := [select on 0xAF 0xAE]

/-- R122. -/
def startLineBytes (start : Byte) : List Byte := [0x40 ||| mask6 start]

/-- R123. -/
def offsetBytes (offset : Byte) : List Byte := [0xD3, mask6 offset]

/-- R124. -/
def chargePumpBytes (enabled : Byte) : List Byte := [0x8D, select enabled 0x14 0x10]

/-- R125. -/
def addrModeBytes (mode : Byte) : List Byte := [0x20, mask2 mode]

/-- R126: the operand is reduced to one bit before the OR. -/
def segRemapBytes (on : Byte) : List Byte := [0xA0 ||| select on 1 0]

/-- R127. -/
def scanDirBytes (backward : Byte) : List Byte := [select backward 0xC8 0xC0]

/-- R128. -/
def comPinsBytes (config : Byte) : List Byte := [0xDA, config]

/-- R129. -/
def contrastBytes (contrast : Byte) : List Byte := [0x81, contrast]

/-- R130. -/
def inversionBytes (inverse : Byte) : List Byte := [select inverse 0xA7 0xA6]

/-- R131. -/
def oscFreqBytes (oscFreq : Byte) : List Byte := [0xD5, oscFreq]

/-- R132. -/
def muxRatioBytes (ratio : Byte) : List Byte := [0xA8, mask6 ratio]

/-- R133. -/
def colWindowBytes (start stop : Byte) : List Byte := [0x21, start, stop]

/-- R134. -/
def pageWindowBytes (start stop : Byte) : List Byte := [0x22, start, stop]

/-- R135. -/
def prechargeBytes (prchrg : Byte) : List Byte := [0xD9, prchrg]

/-- R136. -/
def vcomhBytes (lvl : Byte) : List Byte := [0xDB, lvl]

/-- R137. -/
def wholeOnBytes (force : Byte) : List Byte := [select force 0xA5 0xA4]

/-! ## Geometry -/

/-- FB_SIZE: bytes in the frame buffer and in one full transfer (00_scope.md R8). -/
def fbSize (d : Descriptor) : Nat := d.width * d.height / 8

/-- PAGES (00_scope.md R8). -/
def pages (d : Descriptor) : Nat := d.height / 8

/-- XBM_STRIDE: bytes in one row of the source bitmap, rounded up (00_scope.md R8). -/
def xbmStride (d : Descriptor) : Nat := (d.width + 7) / 8

/-- XBM_SIZE (00_scope.md R8). -/
def xbmSize (d : Descriptor) : Nat := xbmStride d * d.height

/-- The offset of page `p`, column `x` in a frame buffer (20_memory.md R51). -/
def fbOffset (d : Descriptor) (p x : Nat) : Nat := p * d.width + x

/-- The offset in the source bitmap of the byte that holds row `row`, column `x` (20_memory.md R52,
44_xbm_converter.md R177). -/
def xbmOffset (d : Descriptor) (row x : Nat) : Nat := row * xbmStride d + x / 8

/-- MAX_CHUNK of the transport in use (92_eei_decisions.md D10: one value per transport; the 3-wire variant sends
nothing, so its value is never used). -/
def maxChunk (p : Params) : Transport → Nat
  | .i2c => p.maxChunkI2c
  | .spi4 => p.maxChunkSpi
  | .spi3 => p.maxChunkSpi

/-! ## Buffer operands -/

/-- LOAD_FB's buffer holds at least FB_SIZE bytes; null is allowed (92_eei_decisions.md D18). -/
def checkFb (d : Descriptor) : Option BufRef → Option Refusal
  | none => none
  | some buf => if buf.len < fbSize d then some .shortBuffer else none

/-- LOAD_XBM's buffers exist, are long enough and do not overlap (44_xbm_converter.md R181). -/
def checkXbm (d : Descriptor) : Option BufRef → Option BufRef → Option Refusal
  | some xbm, some fb =>
    if xbm.len < xbmSize d || fb.len < fbSize d then some .shortBuffer
    else if !BufRef.disjoint xbm fb then some .overlappingBuffers
    else none
  | _, _ => some .nullBuffer

/-- Data byte number `i` of LOAD_FB: from the buffer, or zero when it is null
(43_frame_buffer_transfer.md R163). -/
def dataByte (s : State) : Option BufRef → Nat → Byte
  | some buf, i => s.memRead buf i
  | none, _ => 0x00

end Sys2Proof.Machine
end

