-- ==== Sys2Proof/Machine/FrameTransfer.lean ====
section
/-! DEFINITION. The Frame Buffer Transfer Engine: the one operation LOAD_FB (43_frame_buffer_transfer.md). -/

namespace Sys2Proof.Machine

/-- Stream (43_frame_buffer_transfer.md R164) as transfers: the bytes from index `i` on, in chunks of `k`, every
chunk full but possibly the last. `fuel` bounds the number of chunks. -/
def streamFrom (k : Nat) : Nat → Nat → List Byte → List Transfer
  | _, _, [] => []
  | 0, _, _ :: _ => []
  | fuel + 1, i, v :: vs =>
    { pos := .stream i, tag := .data, bytes := (v :: vs).take k } ::
      streamFrom k fuel (i + k) ((v :: vs).drop k)

/-- The whole data phase: with chunks of at least one byte there are never more chunks than bytes. -/
def streamTransfers (k : Nat) (bytes : List Byte) : List Transfer := streamFrom k bytes.length 0 bytes

/-- The FB_SIZE data bytes in the order they are sent (43_frame_buffer_transfer.md R163). -/
def dataBytes (buf : Option BufRef) (s : State) : List Byte :=
  (List.range (fbSize s.cfg)).map (dataByte s buf)

/-- The three command sequences of a transfer: column window, page window, mode Horizontal
(43_frame_buffer_transfer.md R160, R161, R162). -/
def windowTransfers (s : State) : List Transfer :=
  cmdSeq s.params.cmdGrouping (.win .col) (colWindowBytes 0 (BitVec.ofNat 8 (s.cfg.width - 1))) ++
  cmdSeq s.params.cmdGrouping (.win .page) (pageWindowBytes 0 (BitVec.ofNat 8 (pages s.cfg - 1))) ++
  cmdSeq s.params.cmdGrouping (.win .mode) (addrModeBytes 0)

/-- LOAD_FB as transfers (43_frame_buffer_transfer.md R160). -/
def loadFbTransfers (buf : Option BufRef) (s : State) : List Transfer :=
  windowTransfers s ++ streamTransfers (maxChunk s.params s.cfg.transport) (dataBytes buf s)

/-- The Transfer Engine: windows, mode, data, abort at the first failure (43_frame_buffer_transfer.md R160, R166). -/
def loadFb (buf : Option BufRef) (s : State) : State := runTransfers (loadFbTransfers buf s) s

/-- LOAD_FB (43_frame_buffer_transfer.md R160). -/
def execLoadFb (buf : Option BufRef) (s : State) : Result := launch (checkFb s.cfg buf) (loadFb buf) s

end Sys2Proof.Machine
end

