-- ==== Sys2Proof/Machine/Converter.lean ====
section
/-! DEFINITION. The XBM Converter: the one operation LOAD_XBM (44_xbm_converter.md). -/

namespace Sys2Proof.Machine

/-- The pixel of the source bitmap at row `row`, column `x`, as a byte of value 0 or 1
(44_xbm_converter.md R175, R177). -/
def sourceBit (xbm : BufRef) (row x : Nat) (s : State) : Byte :=
  (s.memRead xbm (xbmOffset s.cfg row x) >>> (x % 8)) &&& 1

/-- One turn of the innermost loop: place the source pixel of row `p*8 + b` at bit `b` of the accumulator, which
starts at 0 (44_xbm_converter.md R176). -/
def gatherBit (xbm : BufRef) (p x b : Nat) (s : State) : State :=
  let v := if b = 0 then 0 else s.acc
  { s with pos := .xbm p x b, acc := v ||| (sourceBit xbm (p * 8 + b) x s <<< b) }

/-- Store the gathered byte of page `p`, column `x` (44_xbm_converter.md R178). -/
def storeColumn (fb : BufRef) (p x : Nat) (s : State) : State := s.memWrite fb (fbOffset s.cfg p x) s.acc

/-- Gather and store one byte: the eight bits of page `p`, column `x`. -/
def convertColumn (xbm fb : BufRef) (p x : Nat) (s : State) : State :=
  storeColumn fb p x ((List.range 8).foldl (fun s b => gatherBit xbm p x b s) s)

/-- One page: every column in ascending order. -/
def convertPage (xbm fb : BufRef) (p : Nat) (s : State) : State :=
  (List.range s.cfg.width).foldl (fun s x => convertColumn xbm fb p x s) s

/-- The whole conversion: every page in ascending order (44_xbm_converter.md R175). -/
def convert (xbm fb : BufRef) (s : State) : State :=
  (List.range (pages s.cfg)).foldl (fun s p => convertPage xbm fb p s) s

/-- The operation after its checks: convert, then hand the frame buffer to the Transfer Engine
(44_xbm_converter.md R175, R179). Null buffers are refused before this is reached (R181). -/
def loadXbm : Option BufRef → Option BufRef → State → State
  | some xbm, some fb, s => loadFb (some fb) (convert xbm fb s)
  | _, _, s => s

/-- LOAD_XBM (44_xbm_converter.md R175). -/
def execLoadXbm (xbm fb : Option BufRef) (s : State) : Result :=
  launch (checkXbm s.cfg xbm fb) (loadXbm xbm fb) s

end Sys2Proof.Machine
end

