-- ==== Sys2Proof/Machine/InitSequencer.lean ====
section
/-! DEFINITION. The Init Sequencer: the one operation INIT (42_init_sequencer.md). -/

namespace Sys2Proof.Machine

/-- The COM pin configuration as a lookup table keyed by the height (42_init_sequencer.md R152). -/
def comPinsTable (p : Params) : List (Nat × Byte) :=
  [(16, p.comPinsSeq), (32, p.comPinsSeq), (64, p.comPinsAlt)]

/-- COM(H). A height outside the table is refused before it is looked up (00_scope.md R7). -/
def comPinsFor (p : Params) (height : Nat) : Byte := ((comPinsTable p).lookup height).getD p.comPinsSeq

/-- The rows of the init table, top to bottom: the step and the command bytes of the operation it issues
(42_init_sequencer.md R150). -/
def initRows (p : Params) (height : Nat) : List (InitStep × List Byte) :=
  [ (.s1, displayOnBytes 0),
    (.s2, oscFreqBytes p.oscDefault),
    (.s3, muxRatioBytes (BitVec.ofNat 8 (height - 1))),
    (.s4, offsetBytes 0),
    (.s5, startLineBytes 0),
    (.s6, chargePumpBytes (if p.chargePumpInit then 1 else 0)),
    (.s7a, segRemapBytes 1),
    (.s7b, scanDirBytes 1),
    (.s8, comPinsBytes (comPinsFor p height)),
    (.s9, contrastBytes p.contrastDefault),
    (.s10, prechargeBytes p.prechargeDefault),
    (.s11, vcomhBytes p.vcomhDefault),
    (.s12, wholeOnBytes 0),
    (.s13, addrModeBytes 0),
    (.s14, inversionBytes 0),
    (.s15, displayOnBytes 1) ]

/-- INIT as transfers: one CmdSeq for each row (42_init_sequencer.md R150). -/
def initTransfers (s : State) : List Transfer :=
  (initRows s.params s.cfg.height).flatMap fun row =>
    cmdSeq s.params.cmdGrouping (fun k => .init row.1 k) row.2

/-- INIT: every row in order, abort at the first failure (42_init_sequencer.md R150, R151). -/
def execInit (s : State) : Result := launch none (fun s => runTransfers (initTransfers s) s) s

end Sys2Proof.Machine
end

