-- ==== Sys2Proof/Machine/Settings.lean ====
section
/-! DEFINITION. The Command Protocol: the 17 setting operations (41_command_protocol.md). Each sends the command
bytes of its rule with CmdSeq and does nothing else (R120). -/

namespace Sys2Proof.Machine

/-- R121. -/
def execDisplayOn (on : Byte) (s : State) : Result := sendCommand (displayOnBytes on) s

/-- R122. -/
def execSetStartLine (start : Byte) (s : State) : Result := sendCommand (startLineBytes start) s

/-- R123. -/
def execSetOffset (offset : Byte) (s : State) : Result := sendCommand (offsetBytes offset) s

/-- R124. -/
def execSetChargePump (enabled : Byte) (s : State) : Result := sendCommand (chargePumpBytes enabled) s

/-- R125. -/
def execSetAddrMode (mode : Byte) (s : State) : Result := sendCommand (addrModeBytes mode) s

/-- R126. -/
def execSetSegRemap (on : Byte) (s : State) : Result := sendCommand (segRemapBytes on) s

/-- R127. -/
def execSetScanDir (backward : Byte) (s : State) : Result := sendCommand (scanDirBytes backward) s

/-- R128. -/
def execSetComPins (config : Byte) (s : State) : Result := sendCommand (comPinsBytes config) s

/-- R129. -/
def execSetContrast (contrast : Byte) (s : State) : Result := sendCommand (contrastBytes contrast) s

/-- R130. -/
def execSetInversion (inverse : Byte) (s : State) : Result := sendCommand (inversionBytes inverse) s

/-- R131. -/
def execSetOscFreq (oscFreq : Byte) (s : State) : Result := sendCommand (oscFreqBytes oscFreq) s

/-- R132. -/
def execSetMuxRatio (ratio : Byte) (s : State) : Result := sendCommand (muxRatioBytes ratio) s

/-- R133. -/
def execSetColWindow (start stop : Byte) (s : State) : Result := sendCommand (colWindowBytes start stop) s

/-- R134. -/
def execSetPageWindow (start stop : Byte) (s : State) : Result := sendCommand (pageWindowBytes start stop) s

/-- R135. -/
def execSetPrecharge (prchrg : Byte) (s : State) : Result := sendCommand (prechargeBytes prchrg) s

/-- R136. -/
def execSetVcomh (lvl : Byte) (s : State) : Result := sendCommand (vcomhBytes lvl) s

/-- R137. -/
def execSetWholeOn (force : Byte) (s : State) : Result := sendCommand (wholeOnBytes force) s

end Sys2Proof.Machine
end

