-- ==== Sys2Proof/Machine/Transport.lean ====
section
/-! DEFINITION. The one public operation of the Transport Encoder: RAW_CMD (40_transport_encoder.md §3). -/

namespace Sys2Proof.Machine

/-- RAW_CMD: one command byte, not checked against the opcode map (40_transport_encoder.md R107). -/
def execRawCmd (byte : Byte) (s : State) : Result := sendCommand (rawCmdBytes byte) s

end Sys2Proof.Machine
end

