-- ==== Sys2Proof/Machine/Dispatch.lean ====
section
/-! DEFINITION. exec: one arm for each operation of the opcode table, each one direct call of its meaning. -/

namespace Sys2Proof.Machine

def exec (i : Instr) (s : State) : Host.Outcome State Fault Refusal :=
  match i with
  | .rawCmd byte => Sys2Proof.Machine.execRawCmd byte s
  | .init => Sys2Proof.Machine.execInit s
  | .loadFb buf => Sys2Proof.Machine.execLoadFb buf s
  | .loadXbm xbm fb => Sys2Proof.Machine.execLoadXbm xbm fb s
  | .displayOn on => Sys2Proof.Machine.execDisplayOn on s
  | .setStartLine start => Sys2Proof.Machine.execSetStartLine start s
  | .setOffset offset => Sys2Proof.Machine.execSetOffset offset s
  | .setChargePump enabled => Sys2Proof.Machine.execSetChargePump enabled s
  | .setAddrMode mode => Sys2Proof.Machine.execSetAddrMode mode s
  | .setSegRemap on => Sys2Proof.Machine.execSetSegRemap on s
  | .setScanDir backward => Sys2Proof.Machine.execSetScanDir backward s
  | .setComPins config => Sys2Proof.Machine.execSetComPins config s
  | .setContrast contrast => Sys2Proof.Machine.execSetContrast contrast s
  | .setInversion inverse => Sys2Proof.Machine.execSetInversion inverse s
  | .setOscFreq oscFreq => Sys2Proof.Machine.execSetOscFreq oscFreq s
  | .setMuxRatio ratio => Sys2Proof.Machine.execSetMuxRatio ratio s
  | .setColWindow start stop => Sys2Proof.Machine.execSetColWindow start stop s
  | .setPageWindow start stop => Sys2Proof.Machine.execSetPageWindow start stop s
  | .setPrecharge prchrg => Sys2Proof.Machine.execSetPrecharge prchrg s
  | .setVcomh lvl => Sys2Proof.Machine.execSetVcomh lvl s
  | .setWholeOn force => Sys2Proof.Machine.execSetWholeOn force s

end Sys2Proof.Machine
end

