-- ==== Sys2Proof/Decode.lean ====
section
/-! DEFINITION. The two encodings of an operation. The REQUEST is how the host selects one (30_encoding.md R97): it
is what the machine fetches. The COMMAND BYTES are what the operation emits toward the target, the opcode table's
encoding (30_encoding.md R80 to R89). Both are decoded and encoded here. -/

namespace Sys2Proof

/-- Why a decoder answers with no instruction. -/
inductive DecodeError where
  /-- The command stream holds no byte. -/
  | emptyStream
  /-- The stream ends before the parameter bytes its first byte owes (30_encoding.md R89). -/
  | truncated
  /-- A parameter byte that no setting operation emits after this first byte (30_encoding.md R82). -/
  | parameterBits
  /-- A selector of 21 to 31: it selects nothing (30_encoding.md R97). -/
  | noSuchOperation
  /-- A LOAD_FB that is not marked null and names no buffer (60_exceptions.md R194). -/
  | missingBuffer
deriving DecidableEq, Repr

/-! ## The request -/

/-- The operation a request selects (30_encoding.md R95, R97). -/
def decodeRequest (r : Request) : Except DecodeError Instr :=
  match r.sel.toNat with
  | 0 => .ok (.rawCmd r.a)
  | 1 => .ok .init
  | 2 =>
    if r.fbNull then .ok (.loadFb none)
    else
      match r.fb with
      | some buf => .ok (.loadFb (some buf))
      | none => .error .missingBuffer
  | 3 => .ok (.loadXbm r.xbm r.fb)
  | 4 => .ok (.displayOn r.a)
  | 5 => .ok (.setStartLine r.a)
  | 6 => .ok (.setOffset r.a)
  | 7 => .ok (.setChargePump r.a)
  | 8 => .ok (.setAddrMode r.a)
  | 9 => .ok (.setSegRemap r.a)
  | 10 => .ok (.setScanDir r.a)
  | 11 => .ok (.setComPins r.a)
  | 12 => .ok (.setContrast r.a)
  | 13 => .ok (.setInversion r.a)
  | 14 => .ok (.setOscFreq r.a)
  | 15 => .ok (.setMuxRatio r.a)
  | 16 => .ok (.setColWindow r.a r.b)
  | 17 => .ok (.setPageWindow r.a r.b)
  | 18 => .ok (.setPrecharge r.a)
  | 19 => .ok (.setVcomh r.a)
  | 20 => .ok (.setWholeOn r.a)
  | _ => .error .noSuchOperation

/-- A request for an operation with one numeric operand. -/
def Request.withA (sel : BitVec 5) (a : Byte) : Request := { Request.plain sel with a := a }

/-- A request for an operation with two numeric operands. -/
def Request.withAB (sel : BitVec 5) (a b : Byte) : Request := { Request.plain sel with a := a, b := b }

/-- The request that selects an operation; unused fields are zero (30_encoding.md R97). -/
def encodeRequest : Instr → Request
  | .rawCmd byte => .withA 0 byte
  | .init => .plain 1
  | .loadFb none => { Request.plain 2 with fbNull := true }
  | .loadFb (some buf) => { Request.plain 2 with fb := some buf }
  | .loadXbm xbm fb => { Request.plain 3 with xbm := xbm, fb := fb }
  | .displayOn on => .withA 4 on
  | .setStartLine start => .withA 5 start
  | .setOffset offset => .withA 6 offset
  | .setChargePump enabled => .withA 7 enabled
  | .setAddrMode mode => .withA 8 mode
  | .setSegRemap on => .withA 9 on
  | .setScanDir backward => .withA 10 backward
  | .setComPins config => .withA 11 config
  | .setContrast contrast => .withA 12 contrast
  | .setInversion inverse => .withA 13 inverse
  | .setOscFreq oscFreq => .withA 14 oscFreq
  | .setMuxRatio ratio => .withA 15 ratio
  | .setColWindow start stop => .withAB 16 start stop
  | .setPageWindow start stop => .withAB 17 start stop
  | .setPrecharge prchrg => .withA 18 prchrg
  | .setVcomh lvl => .withA 19 lvl
  | .setWholeOn force => .withA 20 force

/-! ## The command bytes -/

/-- A byte pattern of the opcode table: a byte `v` fits when `v &&& mask = value`. -/
structure BytePattern where
  mask : Byte
  value : Byte
deriving DecidableEq, Repr

/-- Does the byte fit the pattern. -/
def BytePattern.fits (p : BytePattern) (v : Byte) : Bool := v &&& p.mask == p.value

/-- The pattern of a byte that is an operand with all 8 bits. -/
def BytePattern.any : BytePattern := ⟨0x00, 0x00⟩

/-- The pattern of one fixed byte. -/
def BytePattern.exact (v : Byte) : BytePattern := ⟨0xFF, v⟩

/-- One row of the opcode map (30_encoding.md R88): the pattern of the first byte, the patterns of the parameter
bytes it owes, and the setting operation the bytes stand for. -/
structure CommandRow where
  first : BytePattern
  params : List BytePattern
  build : Byte → Byte → Byte → Instr

/-- The opcode map of the 17 setting operations (30_encoding.md R81 to R83, R88). -/
def commandRows : List CommandRow :=
  [ ⟨⟨0xFE, 0xAE⟩, [], fun v _ _ => .displayOn (v &&& 1)⟩,
    ⟨⟨0xC0, 0x40⟩, [], fun v _ _ => .setStartLine (v &&& 0x3F)⟩,
    ⟨.exact 0xD3, [⟨0xC0, 0x00⟩], fun _ p _ => .setOffset p⟩,
    ⟨.exact 0x8D, [⟨0xFB, 0x10⟩], fun _ p _ => .setChargePump ((p >>> 2) &&& 1)⟩,
    ⟨.exact 0x20, [⟨0xFC, 0x00⟩], fun _ p _ => .setAddrMode p⟩,
    ⟨⟨0xFE, 0xA0⟩, [], fun v _ _ => .setSegRemap (v &&& 1)⟩,
    ⟨⟨0xF7, 0xC0⟩, [], fun v _ _ => .setScanDir ((v >>> 3) &&& 1)⟩,
    ⟨.exact 0xDA, [.any], fun _ p _ => .setComPins p⟩,
    ⟨.exact 0x81, [.any], fun _ p _ => .setContrast p⟩,
    ⟨⟨0xFE, 0xA6⟩, [], fun v _ _ => .setInversion (v &&& 1)⟩,
    ⟨.exact 0xD5, [.any], fun _ p _ => .setOscFreq p⟩,
    ⟨.exact 0xA8, [⟨0xC0, 0x00⟩], fun _ p _ => .setMuxRatio p⟩,
    ⟨.exact 0x21, [.any, .any], fun _ p q => .setColWindow p q⟩,
    ⟨.exact 0x22, [.any, .any], fun _ p q => .setPageWindow p q⟩,
    ⟨.exact 0xD9, [.any], fun _ p _ => .setPrecharge p⟩,
    ⟨.exact 0xDB, [.any], fun _ p _ => .setVcomh p⟩,
    ⟨⟨0xFE, 0xA4⟩, [], fun v _ _ => .setWholeOn (v &&& 1)⟩ ]

/-- The row a first command byte belongs to, if any (30_encoding.md R88). -/
def findRow (v : Byte) : Option CommandRow := commandRows.find? fun r => r.first.fits v

/-- Every byte fits the pattern at its place, and there are as many bytes as patterns. -/
def fitsAll : List BytePattern → List Byte → Bool
  | [], [] => true
  | p :: ps, v :: vs => p.fits v && fitsAll ps vs
  | _, _ => false

/-- Reads one operation from a stream of command bytes and answers it with the rest of the stream
(30_encoding.md R89): the first byte says how many parameter bytes follow, those are not looked up in the map,
and a first byte outside the map can only have come from RAW_CMD. How many bytes such a byte owes the reader cannot
know: that it is taken as owing none, so that the next byte is a first byte again, is a DESIGN CHOICE (log entry
25). -/
def decode : List Byte → Except DecodeError (Instr × List Byte)
  | [] => .error .emptyStream
  | v :: rest =>
    match findRow v with
    | none => .ok (.rawCmd v, rest)
    | some row =>
      let ps := rest.take row.params.length
      if ps.length < row.params.length then .error .truncated
      else if fitsAll row.params ps then
        .ok (row.build v (ps.getD 0 0) (ps.getD 1 0), rest.drop row.params.length)
      else .error .parameterBits

/-- Reads a whole stream of command bytes, `fuel` operations at most (30_encoding.md R89). After a byte outside the map
it goes on with the next byte as a first byte (DESIGN CHOICE, log entry 25). -/
def decodeStream : Nat → List Byte → Except DecodeError (List Instr)
  | _, [] => .ok []
  | 0, _ :: _ => .error .truncated
  | fuel + 1, v :: rest =>
    match decode (v :: rest) with
    | .error e => .error e
    | .ok (i, rest') =>
      match decodeStream fuel rest' with
      | .error e => .error e
      | .ok is => .ok (i :: is)

/-- The truth of a Boolean operand as the one bit the encodings carry (30_encoding.md R85). -/
def truthBit (v : Byte) : BitVec 1 := BitVec.ofBool (v != 0)

/-- The low `w` bits of an operand. -/
def lowBits (w : Nat) (v : Byte) : BitVec w := v.extractLsb' 0 w

/-- The command bytes an operation emits, written from the bit patterns of the encoding tables
(30_encoding.md R81 to R83; the opcode table's rows for the macros, whose fields come from the descriptor and
the parameters). LOAD_FB and LOAD_XBM emit data bytes after these. -/
def encode (p : Params) (d : Descriptor) : Instr → List Byte
  | .rawCmd byte => [byte]
  | .init =>
    [ 0xAE, 0xD5, p.oscDefault, 0xA8, 0b00#2 ++ BitVec.ofNat 6 (d.height - 1), 0xD3, 0x00, 0x40,
      0x8D, 0b00010#5 ++ BitVec.ofBool p.chargePumpInit ++ 0b00#2, 0xA1, 0xC8,
      0xDA, if d.height = 64 then p.comPinsAlt else p.comPinsSeq, 0x81, p.contrastDefault,
      0xD9, p.prechargeDefault, 0xDB, p.vcomhDefault, 0xA4, 0x20, 0x00, 0xA6, 0xAF ]
  | .loadFb _ => encodeWindows d
  | .loadXbm _ _ => encodeWindows d
  | .displayOn on => [0b1010111#7 ++ truthBit on]
  | .setStartLine start => [0b01#2 ++ lowBits 6 start]
  | .setOffset offset => [0xD3, 0b00#2 ++ lowBits 6 offset]
  | .setChargePump enabled => [0x8D, 0b00010#5 ++ truthBit enabled ++ 0b00#2]
  | .setAddrMode mode => [0x20, 0b000000#6 ++ lowBits 2 mode]
  | .setSegRemap on => [0b1010000#7 ++ truthBit on]
  | .setScanDir backward => [0b1100#4 ++ truthBit backward ++ 0b000#3]
  | .setComPins config => [0xDA, config]
  | .setContrast contrast => [0x81, contrast]
  | .setInversion inverse => [0b1010011#7 ++ truthBit inverse]
  | .setOscFreq oscFreq => [0xD5, oscFreq]
  | .setMuxRatio ratio => [0xA8, 0b00#2 ++ lowBits 6 ratio]
  | .setColWindow start stop => [0x21, start, stop]
  | .setPageWindow start stop => [0x22, start, stop]
  | .setPrecharge prchrg => [0xD9, prchrg]
  | .setVcomh lvl => [0xDB, lvl]
  | .setWholeOn force => [0b1010010#7 ++ truthBit force]
where
  /-- The eight command bytes of LOAD_FB and LOAD_XBM, from the opcode table's rows. -/
  encodeWindows (d : Descriptor) : List Byte :=
    [ 0x21, 0x00, 0b0#1 ++ BitVec.ofNat 7 (d.width - 1),
      0x22, 0x00, 0b00000#5 ++ BitVec.ofNat 3 (d.height / 8 - 1), 0x20, 0x00 ]

/-- Is the operation a macro: one with no encoding of its own (30_encoding.md R96). -/
def Instr.isMacro : Instr → Bool
  | .init => true
  | .loadFb _ => true
  | .loadXbm _ _ => true
  | .rawCmd _ => false
  | .displayOn _ => false
  | .setStartLine _ => false
  | .setOffset _ => false
  | .setChargePump _ => false
  | .setAddrMode _ => false
  | .setSegRemap _ => false
  | .setScanDir _ => false
  | .setComPins _ => false
  | .setContrast _ => false
  | .setInversion _ => false
  | .setOscFreq _ => false
  | .setMuxRatio _ => false
  | .setColWindow _ _ => false
  | .setPageWindow _ _ => false
  | .setPrecharge _ => false
  | .setVcomh _ => false
  | .setWholeOn _ => false

/-! ## Words of the opcode table -/

/-- The command bytes of INIT as patterns, from the opcode table's row. -/
def initPatterns : List BytePattern :=
  [ .exact 0xAE, .exact 0xD5, .any, .exact 0xA8, ⟨0xC0, 0x00⟩, .exact 0xD3, .exact 0x00, .exact 0x40 ] ++
  [ .exact 0x8D, ⟨0xFB, 0x10⟩, .exact 0xA1, .exact 0xC8, .exact 0xDA, .any, .exact 0x81, .any ] ++
  [ .exact 0xD9, .any, .exact 0xDB, .any, .exact 0xA4, .exact 0x20, .exact 0x00, .exact 0xA6, .exact 0xAF ]

/-- The command bytes of LOAD_FB and of LOAD_XBM as patterns, from the opcode table's two equal rows. -/
def windowPatterns : List BytePattern :=
  [ .exact 0x21, .exact 0x00, ⟨0x80, 0x00⟩, .exact 0x22, .exact 0x00, ⟨0xF8, 0x00⟩, .exact 0x20, .exact 0x00 ]

/-- The macro whose whole row of the opcode table the bytes fit. The rows of LOAD_FB and LOAD_XBM are equal, and
neither says where a buffer lies: the bytes are read as LOAD_FB null (log entry 21). -/
def decodeMacro (bytes : List Byte) : Option Instr :=
  if fitsAll initPatterns bytes then some .init
  else if fitsAll windowPatterns bytes then some (.loadFb none)
  else none

/-- The bytes of a word of the opcode table, in stream order. The table reads a row's whole bit pattern as one
number, so the first byte stands in the most significant place (log entry 21). -/
def tableBytes (nbits w : Nat) : List Byte :=
  (List.range (nbits / 8)).map fun k => BitVec.ofNat 8 (w >>> (nbits - 8 * (k + 1)))

/-- The instruction the decoder reads from a word of the opcode table; parameter bytes the word does not hold
are zero. -/
def decodeTableWord (nbits w : Nat) : Option Instr :=
  match decodeMacro (tableBytes nbits w) with
  | some i => some i
  | none =>
    match decode (tableBytes nbits w ++ [0x00, 0x00]) with
    | .ok (i, _) => some i
    | .error _ => none

end Sys2Proof
end

