-- ==== Sys2Proof/Machine/Sequencer.lean ====
section
/-! DEFINITION. The sequencer, one position at a time (10_state.md R22, 45_sequencing_memory_system_classes.md
R251): an operation in progress stands at a position, and a tick makes the transfer or the gather of that
position and moves on or aborts. exec runs a whole operation in one step; this file says what the block does
one position at a time, where a reset event can come between (log entry 10). -/

namespace Sys2Proof.Machine

/-- The command bytes of an operation that is one command sequence; none for a macro. -/
def commandBytes : Instr → List Byte
  | .rawCmd byte => rawCmdBytes byte
  | .init => []
  | .loadFb _ => []
  | .loadXbm _ _ => []
  | .displayOn on => displayOnBytes on
  | .setStartLine start => startLineBytes start
  | .setOffset offset => offsetBytes offset
  | .setChargePump enabled => chargePumpBytes enabled
  | .setAddrMode mode => addrModeBytes mode
  | .setSegRemap on => segRemapBytes on
  | .setScanDir backward => scanDirBytes backward
  | .setComPins config => comPinsBytes config
  | .setContrast contrast => contrastBytes contrast
  | .setInversion inverse => inversionBytes inverse
  | .setOscFreq oscFreq => oscFreqBytes oscFreq
  | .setMuxRatio ratio => muxRatioBytes ratio
  | .setColWindow start stop => colWindowBytes start stop
  | .setPageWindow start stop => pageWindowBytes start stop
  | .setPrecharge prchrg => prechargeBytes prchrg
  | .setVcomh lvl => vcomhBytes lvl
  | .setWholeOn force => wholeOnBytes force

/-- The transfers of an operation, in order, each with its position. -/
def operationTransfers (i : Instr) (s : State) : List Transfer :=
  match i with
  | .init => initTransfers s
  | .loadFb buf => loadFbTransfers buf s
  | .loadXbm _ fb => loadFbTransfers fb s
  | i => cmdSeq s.params.cmdGrouping .cmd (commandBytes i)

/-- The check of an operation's buffers. -/
def bufferCheck (d : Descriptor) : Instr → Option Refusal
  | .loadFb buf => checkFb d buf
  | .loadXbm xbm fb => checkXbm d xbm fb
  | _ => none

/-- The position of the first transfer, Idle where there is none. -/
def firstPos : List Transfer → Pos
  | [] => .idle
  | t :: _ => t.pos

/-- The position at which an operation begins: the converter's first bit, or its first transfer. -/
def startPos (i : Instr) (s : State) : Pos :=
  match i with
  | .loadXbm _ _ => .xbm 0 0 0
  | i => firstPos (operationTransfers i s)

/-- The block has latched the request and stands at the operation's first position. -/
def beginOperation (i : Instr) (s : State) : State := { s with pos := startPos i s }

/-- The position of 10_state.md R22 that a position stands at: the transfer's, inside its frame. -/
def Pos.base : Pos → Pos
  | .frame p _ => p
  | p => p

/-- Is the chip select asserted at this position: between the two pin writes of a frame
(40_transport_encoder.md R102). -/
def Pos.holdsSelect : Pos → Bool
  | .frame _ .selected => true
  | .frame _ (.written _) => true
  | _ => false

/-- A transfer ended with status `st`: stand at the next one, or end the operation
(45_sequencing_memory_system_classes.md R251: Next or Abort). -/
def afterTransfer (st : Status) (rest : List Transfer) (s : State) : State :=
  if succeeded st then
    match rest with
    | [] => s.succeed
    | u :: _ => { s with pos := u.pos }
  else s.abort st

/-- One line of the chip-select frame of the transfer `t`, made at position `p`; `line` is the line executed before
it, if any (40_transport_encoder.md R102). -/
def tickFrame (p : Pos) (t : Transfer) (rest : List Transfer) (s : State) : Option FrameLine → State
  | none => { s.driveDc (tagLevel t.tag) with pos := .frame p .driven }
  | some .driven => { s.driveCs .asserted with pos := .frame p .selected }
  | some .selected =>
    match s.busWrite (.spi t.bytes) t.tag t.bytes with
    | (st, s') => { s' with pos := .frame p (.written st) }
  | some (.written st) => afterTransfer st rest (s.driveCs .deasserted)

/-- From a transfer's position: the next line of its frame under 4-wire SPI, the whole call of TxSend otherwise,
which is one bus write or none. -/
def tickTransfer (ts : List Transfer) (s : State) : Result :=
  match ts.dropWhile fun t => t.pos != s.pos.base with
  | [] => .fault .strayPosition
  | t :: rest =>
    match s.cfg.transport, s.pos with
    | .spi4, .frame p line => .next (tickFrame p t rest s (some line))
    | .spi4, p => .next (tickFrame p t rest s none)
    | _, .frame _ _ => .fault .strayPosition
    | _, _ =>
      match txSend t.tag t.bytes s with
      | (st, s') => .next (afterTransfer st rest s')

/-- The converter's position after bit `b` of page `p`, column `x`: the next bit, column or page, or the first
transfer of the Transfer Engine (44_xbm_converter.md R175). -/
def nextXbm (fb : BufRef) (p x b : Nat) (s : State) : Pos :=
  if b < 7 then .xbm p x (b + 1)
  else if x + 1 < s.cfg.width then .xbm p (x + 1) 0
  else if p + 1 < pages s.cfg then .xbm (p + 1) 0 0
  else firstPos (loadFbTransfers (some fb) s)

/-- From a converter's position: gather one bit, store the byte after its last bit, and move on. -/
def tickXbm (xbm fb : BufRef) (p x b : Nat) (s : State) : State :=
  let g := gatherBit xbm p x b s
  let g := if b < 7 then g else storeColumn fb p x g
  { g with pos := nextXbm fb p x b s }

/-- One move of the sequencer inside the operation `i`: one bit of the converter, one bus write, or one line of a
chip-select frame. -/
def tickInside (i : Instr) (s : State) : Result :=
  match s.pos, i with
  | .xbm p x b, .loadXbm (some xbm) (some fb) =>
    if p < pages s.cfg ∧ x < s.cfg.width ∧ b < 8 then .next (tickXbm xbm fb p x b s)
    else .fault .strayPosition
  | _, i => tickTransfer (operationTransfers i s) s

/-- One move of the sequencer inside the operation of the latched request. -/
def tick (s : State) : Result :=
  match decodeRequest s.req with
  | .error _ => .fault .strayPosition
  | .ok i =>
    match (instanceCheck s).or (bufferCheck s.cfg i) with
    | some r => .refused r
    | none => tickInside i s

/-- `n` moves of the sequencer. -/
def ticks : Nat → State → Result
  | 0, s => .next s
  | n + 1, s =>
    match tick s with
    | .next s' => ticks n s'
    | .fault r => .fault r
    | .refused r => .refused r

end Sys2Proof.Machine
end

