-- ==== Sys2Proof/Machine/Fetch.lean ====
section
/-! DEFINITION. How the block takes what the host presents, and how a request is placed for it
(10_state.md R21, R22; log entries 21, 22 and 26). -/

namespace Sys2Proof.Machine

/-- The refusal of a request that selects nothing (30_encoding.md R97, 60_exceptions.md R194). -/
def refusalOf : DecodeError → Refusal
  | .missingBuffer => .missingBuffer
  | .emptyStream => .noSuchOperation
  | .truncated => .noSuchOperation
  | .parameterBits => .noSuchOperation
  | .noSuchOperation => .noSuchOperation

/-- Latch a request and stand at its operation's first position, when nothing refuses it (10_state.md R22). -/
def startRequest (r : Request) (s : State) : Result :=
  match decodeRequest r with
  | .error e => .refused (refusalOf e)
  | .ok i =>
    match (instanceCheck s).or (bufferCheck s.cfg i) with
    | some e => .refused e
    | none => .next (beginOperation i { s with req := r })

/-- The block is idle and the host presents something. A request is latched and its operation runs to its end, or
stands at its first position when it is to run one position a step (log entry 10). -/
def accept (e : HostEvent) (s : State) : Result :=
  match e with
  | .reset => .next s.resetEvent
  | .configure d => .next { s with cfg := d }
  | .store addr v => .next { s with mem := Memory.write s.mem addr v }
  | .request r =>
    match decodeRequest r with
    | .error e => .refused (refusalOf e)
    | .ok i => exec i { s with req := r }
  | .start r => startRequest r s
  | .pass => .next s

/-- The next move of the machine. A reset event is taken at any position (70_reset_and_hazards.md R220). When the
block is idle it takes what the host presents, or waits: it never starts an operation by itself
(45_sequencing_memory_system_classes.md R250). When an operation is in progress the sequencer moves on by
one position when nothing is presented, and anything else presented then is refused (60_exceptions.md R208). -/
def advance (s : State) : Result :=
  match s.pos, s.port with
  | _, .reset :: rest => .next ({ s with port := rest }).resetEvent
  | .idle, [] => .next s
  | .idle, e :: rest => accept e { s with port := rest }
  | _, [] => tick s
  | _, .pass :: rest => tick { s with port := rest }
  | _, _ :: _ => .refused .busy

/-- The request that presents the instruction of a word of the opcode table; a word that is no instruction gives
a request that selects nothing. -/
def requestOfWord (nbits w : Nat) : Request :=
  match decodeTableWord nbits w with
  | some i => encodeRequest i
  | none => Request.plain 31

/-- The block idle, with a request presented next. -/
def State.present (s : State) (r : Request) : State := { s with pos := .idle, port := .request r :: s.port }

end Sys2Proof.Machine
end

