-- ==== Sys2Proof/Machine/Step.lean ====
section
/-! DEFINITION. The step, and where the instruction of a word is placed for it. -/

namespace Sys2Proof.Machine

/-- One step of the machine. -/
def step (s : State) : Host.Outcome State Fault Refusal := advance s

/-- The state in which `step` fetches and runs the instruction of a word of the opcode table. -/
def State.withFetchWord (s : State) (nbits w : Nat) : State := s.present (requestOfWord nbits w)

end Sys2Proof.Machine
end

