-- ==== Sys2Proof/Machine/Sink.lean ====
section
/-! DEFINITION. The reference sink (20_memory.md R70 to R74): an ENVIRONMENT MODEL of the target, no part of the
block and no part of State. It reads the tagged bytes a run delivered. Its sentences on the pointer are general
knowledge (93_implementation_defined.md G6, log entry 24): no statement about the block rests on them but those
that name the sink. -/

namespace Sys2Proof.Machine

/-- The addressing modes of the target (00_scope.md R15). -/
inductive AddrMode where
  | horizontal
  | vertical
  | page
deriving DecidableEq, Repr

/-- The target as far as the spec says: its display RAM (a byte for each page and column; that there are 256 of each
is a DESIGN CHOICE, log entry 24), its pointer, the two
windows, the mode, the other settings as they were last sent (10_state.md R26), and the command bytes of a
command whose parameters are still owed (30_encoding.md R89). -/
structure Sink where
  ram : Memory
  pagePtr : Byte
  colPtr : Byte
  colStart : Byte
  colStop : Byte
  pageStart : Byte
  pageStop : Byte
  mode : AddrMode
  displayOn : Bool
  startLine : Byte
  offset : Byte
  chargePump : Bool
  segRemap : Bool
  scanBackward : Bool
  comPins : Byte
  contrast : Byte
  inverse : Bool
  oscFreq : Byte
  muxRatio : Byte
  precharge : Byte
  vcomh : Byte
  wholeOn : Bool
  pending : List Byte
deriving DecidableEq, Repr

/-- Why the sink refuses to go on: the spec gives the target's reaction no meaning. -/
inductive SinkRefusal where
  /-- A command byte outside the opcode map (93_implementation_defined.md U11). SAFE. -/
  | unknownCommand
  /-- A parameter no setting operation emits, where the spec gives the sink no reaction to it
  (93_implementation_defined.md U1). SAFE. -/
  | badParameter
  /-- Addressing mode 3 (93_implementation_defined.md U3). SAFE. -/
  | badMode
  /-- A window whose start lies after its stop (93_implementation_defined.md U1). SAFE. -/
  | reversedWindow
  /-- A data byte in Vertical or Page mode (93_implementation_defined.md U13). SAFE. -/
  | dataOutsideHorizontal
deriving DecidableEq, Repr

/-- The address under which the sink keeps the byte of a page and a column. -/
def Sink.ramAddr (page col : Byte) : Nat := page.toNat * 256 + col.toNat

/-- RAM[p][x] (20_memory.md R71). -/
def Sink.ramAt (k : Sink) (page col : Byte) : Byte := Memory.read k.ram (Sink.ramAddr page col)

/-- The sink's reaction to a whole setting command (10_state.md R26, 20_memory.md R72). A window beyond the panel is
taken as it was sent (DESIGN CHOICE, log entry 24: the spec leaves the reaction open, U1). -/
def Sink.apply (k : Sink) : Instr → Except SinkRefusal Sink
  | .rawCmd _ => .error .unknownCommand
  | .init => .error .unknownCommand
  | .loadFb _ => .error .unknownCommand
  | .loadXbm _ _ => .error .unknownCommand
  | .displayOn on => .ok { k with displayOn := on != 0 }
  | .setStartLine start => .ok { k with startLine := start }
  | .setOffset offset => .ok { k with offset := offset }
  | .setChargePump enabled => .ok { k with chargePump := enabled != 0 }
  | .setAddrMode mode =>
    match (mode &&& 0x03).toNat with
    | 0 => .ok { k with mode := .horizontal }
    | 1 => .ok { k with mode := .vertical }
    | 2 => .ok { k with mode := .page }
    | _ => .error .badMode
  | .setSegRemap on => .ok { k with segRemap := on != 0 }
  | .setScanDir backward => .ok { k with scanBackward := backward != 0 }
  | .setComPins config => .ok { k with comPins := config }
  | .setContrast contrast => .ok { k with contrast := contrast }
  | .setInversion inverse => .ok { k with inverse := inverse != 0 }
  | .setOscFreq oscFreq => .ok { k with oscFreq := oscFreq }
  | .setMuxRatio ratio => .ok { k with muxRatio := ratio }
  | .setColWindow start stop =>
    if stop < start then .error .reversedWindow
    else .ok { k with colStart := start, colStop := stop, colPtr := start }
  | .setPageWindow start stop =>
    if stop < start then .error .reversedWindow
    else .ok { k with pageStart := start, pageStop := stop, pagePtr := start }
  | .setPrecharge prchrg => .ok { k with precharge := prchrg }
  | .setVcomh lvl => .ok { k with vcomh := lvl }
  | .setWholeOn force => .ok { k with wholeOn := force != 0 }

/-- The sink's reaction to a data byte in Horizontal mode (20_memory.md R73). The pointer is one byte for the page and
one for the column, so that from outside its window it runs on to 255 and then to 0 (DESIGN CHOICE, log entry
24). -/
def Sink.storeData (k : Sink) (v : Byte) : Sink :=
  let k := { k with ram := Memory.write k.ram (Sink.ramAddr k.pagePtr k.colPtr) v }
  if k.colPtr = k.colStop then
    { k with colPtr := k.colStart, pagePtr := if k.pagePtr = k.pageStop then k.pageStart else k.pagePtr + 1 }
  else { k with colPtr := k.colPtr + 1 }

/-- The sink takes one tagged byte. Command bytes are read as 30_encoding.md R89 says; data bytes take no part in
that. Of the mode's parameter only bits 1:0 count, whatever the others are (20_memory.md R72). -/
def Sink.feed (k : Sink) : TaggedByte → Except SinkRefusal Sink
  | (.cmd, v) =>
    match decode (k.pending ++ [v]) with
    | .error .truncated => .ok { k with pending := k.pending ++ [v] }
    | .error _ =>
      if k.pending = [0x20] then Sink.apply { k with pending := [] } (.setAddrMode v) else .error .badParameter
    | .ok (i, _) => Sink.apply { k with pending := [] } i
  | (.data, v) =>
    match k.mode with
    | .horizontal => .ok (k.storeData v)
    | .vertical => .error .dataOutsideHorizontal
    | .page => .error .dataOutsideHorizontal

/-- The sink takes a whole logical stream. -/
def Sink.run : List TaggedByte → Sink → Except SinkRefusal Sink
  | [], k => .ok k
  | t :: ts, k =>
    match k.feed t with
    | .error e => .error e
    | .ok k' => Sink.run ts k'

/-- The bytes a target reads from a wire trace of accepted writes, each with its tag (20_memory.md R73): under I2C
the tag is the control byte that opens the transaction, under SPI the level of the data/command pin, `dcPin`,
last driven to `level`. Bytes whose tag cannot be told are left out. -/
def readWire (dcPin : Nat) : Option Level → List Event → List TaggedByte
  | _, [] => []
  | level, .pin id l :: es => readWire dcPin (if id = dcPin then some l else level) es
  | level, .i2c _ payload _ :: es =>
    (match payload with
      | [] => []
      | ctrl :: bytes =>
        if ctrl = controlByte .cmd then bytes.map fun v => (.cmd, v)
        else if ctrl = controlByte .data then bytes.map fun v => (.data, v)
        else []) ++ readWire dcPin level es
  | level, .spi bytes _ :: es =>
    (match level with
      | none => []
      | some .low => bytes.map fun v => (.cmd, v)
      | some .high => bytes.map fun v => (.data, v)) ++ readWire dcPin level es

end Sys2Proof.Machine
end

