-- ==== Sys2Proof/Safety.lean ====
section
/-! DEFINITION. The terms in which the statements speak of runs: when a request is admitted, what the bus driver
will answer, what a list of transfers leaves behind in closed form, the invariants, and the buffers as a whole. -/

namespace Sys2Proof.Machine

/-! ## When an operation is admitted -/

/-- The block is idle and its descriptor and parameters are legal: what every operation needs
(00_scope.md R7, R9, 60_exceptions.md R208). -/
def State.Ready (s : State) : Prop := s.pos = .idle ∧ legalParams s.params = true ∧ legalGeometry s.cfg = true

/-- A frame buffer operand that LOAD_FB admits (92_eei_decisions.md D18). -/
def FbAdmitted (d : Descriptor) (buf : BufRef) : Prop := fbSize d ≤ buf.len

/-- The buffers LOAD_XBM admits (44_xbm_converter.md R181). -/
def XbmAdmitted (d : Descriptor) (xbm fb : BufRef) : Prop :=
  xbmSize d ≤ xbm.len ∧ fbSize d ≤ fb.len ∧ (xbm.base + xbm.len ≤ fb.base ∨ fb.base + fb.len ≤ xbm.base)

/-! ## The bus driver -/

/-- The driver will accept the next `n` bus writes. -/
def State.BusAccepts (s : State) (n : Nat) : Prop := ∀ k, k < n → (s.answerAt k).status = 0

/-- The driver will accept `k` bus writes and fail the next one with status `st`. -/
def State.BusFailsAt (s : State) (k : Nat) (st : Status) : Prop :=
  s.BusAccepts k ∧ (s.answerAt k).status = st ∧ st ≠ 0

/-! ## Transfers in closed form -/

/-- How many of the next `n` bus writes are accepted before the first that is not. -/
def State.acceptedOf (s : State) (n : Nat) : Nat :=
  ((List.range n).takeWhile fun k => (s.answerAt k).status == 0).length

/-- The bus writes CmdSeq makes for a command sequence (40_transport_encoder.md R106): one for each byte, or one. -/
def commandUnits (g : CmdGrouping) (bytes : List Byte) : List (Tag × List Byte) :=
  match g with
  | .perByte => bytes.map fun v => (.cmd, [v])
  | .perCommand => [(.cmd, bytes)]

/-- A list cut in pieces of `k`, `fuel` pieces at most. -/
def pieces (k : Nat) : Nat → List Byte → List (List Byte)
  | 0, _ => []
  | fuel + 1, l => if l = [] then [] else l.take k :: pieces k fuel (l.drop k)

/-- The bus writes of the data phase: chunks of `k` bytes (43_frame_buffer_transfer.md R164). -/
def dataUnits (k : Nat) (bytes : List Byte) : List (Tag × List Byte) :=
  (pieces k bytes.length bytes).map fun c => (.data, c)

/-- The events of one call of TxSend whose bus write ended with status `st` (40_transport_encoder.md R101, R102). -/
def frameEvents (p : Params) (d : Descriptor) (u : Tag × List Byte) (st : Status) : List Event :=
  match d.transport with
  | .i2c => [.i2c d.i2cAddr ((match u.1 with | .cmd => 0x00 | .data => 0x40) :: u.2) st]
  | .spi4 =>
    [ .pin d.dcPin (match u.1 with | .cmd => .low | .data => .high),
      .pin d.csPin p.csActiveLevel,
      .spi u.2 st,
      .pin d.csPin (match p.csActiveLevel with | .low => .high | .high => .low) ]
  | .spi3 => []

/-- The tagged bytes of a bus write. -/
def tagged (u : Tag × List Byte) : List TaggedByte := u.2.map fun v => (u.1, v)

/-- The tagged bytes of a bus write that reach the target under an answer: all of an accepted write, a prefix of
a failing one (92_eei_decisions.md D23). -/
def taggedUnder (u : Tag × List Byte) (a : BusAnswer) : List TaggedByte :=
  if a.status = 0 then tagged u else tagged (u.1, u.2.take a.delivered)

/-- The state after an operation that makes the bus writes `us`, in closed form: the writes up to and with the
first one that fails were made, each with its events; the status is the failing write's, or 0; under SPI3
nothing was done and the status is ERR_UNSUPPORTED (40_transport_encoder.md R100 to R106, 60_exceptions.md
R197). Every field not named is unchanged. -/
def State.afterSending (s : State) (us : List (Tag × List Byte)) : State :=
  match s.cfg.transport with
  | .spi3 => { s with pos := .idle, status := some s.params.errUnsupported }
  | _ =>
    let k := s.acceptedOf us.length
    let made := us.take (k + 1)
    { s with
      pos := .idle
      status := some (if k = us.length then 0 else (s.answerAt k).status)
      trace := s.trace ++
        (made.mapIdx fun j u => frameEvents s.params s.cfg u (s.answerAt j).status).flatten
      stream := s.stream ++ (made.mapIdx fun j u => taggedUnder u (s.answerAt j)).flatten
      busIn := s.busIn.drop made.length
      busCount := s.busCount + made.length
      cs := if s.cfg.transport = .spi4 then .deasserted else s.cs
      dc :=
        match s.cfg.transport, made.getLast? with
        | .spi4, some (.cmd, _) => .low
        | .spi4, some (.data, _) => .high
        | _, _ => s.dc }

/-- The command units of INIT in the fixed order of its table (42_init_sequencer.md R150). -/
def initUnits (p : Params) (h : Nat) : List (Tag × List Byte) :=
  [ [0xAE], [0xD5, p.oscDefault], [0xA8, BitVec.ofNat 8 (h - 1) &&& 0x3F], [0xD3, 0x00], [0x40],
    [0x8D, if p.chargePumpInit then 0x14 else 0x10], [0xA1], [0xC8],
    [0xDA, if h = 64 then p.comPinsAlt else p.comPinsSeq], [0x81, p.contrastDefault],
    [0xD9, p.prechargeDefault], [0xDB, p.vcomhDefault], [0xA4], [0x20, 0x00], [0xA6], [0xAF] ].flatMap
      (commandUnits p.cmdGrouping)

/-- The command units of LOAD_FB: column window, page window, mode Horizontal
(43_frame_buffer_transfer.md R160, R161). -/
def windowUnits (p : Params) (d : Descriptor) : List (Tag × List Byte) :=
  [ [0x21, 0x00, BitVec.ofNat 8 (d.width - 1)], [0x22, 0x00, BitVec.ofNat 8 (d.height / 8 - 1)],
    [0x20, 0x00] ].flatMap (commandUnits p.cmdGrouping)

/-- All the bus writes of a transfer of `bytes` (43_frame_buffer_transfer.md R160). -/
def loadUnits (p : Params) (d : Descriptor) (bytes : List Byte) : List (Tag × List Byte) :=
  windowUnits p d ++
    dataUnits (match d.transport with | .i2c => p.maxChunkI2c | _ => p.maxChunkSpi) bytes

/-! ## The buffers as a whole -/

/-- The bytes of a buffer from its first to its `n`th, in order. -/
def State.bufferBytes (s : State) (buf : BufRef) (n : Nat) : List Byte :=
  (List.range n).map fun i => Memory.read s.mem (buf.base + i)

/-- The pixel of a frame buffer at row `r`, column `c` (20_memory.md R51). -/
def State.fbPixel (s : State) (fb : BufRef) (r c : Nat) : Bool :=
  (Memory.read s.mem (fb.base + (r / 8 * s.cfg.width + c))).getLsbD (r % 8)

/-- The pixel of a source bitmap at row `r`, column `c` (20_memory.md R52). -/
def State.xbmPixel (s : State) (xbm : BufRef) (r c : Nat) : Bool :=
  (Memory.read s.mem (xbm.base + (r * ((s.cfg.width + 7) / 8) + c / 8))).getLsbD (c % 8)

/-- The byte the conversion stores at offset `i`: bit `b` is the source pixel of row `(i / W) * 8 + b`, column
`i % W` (44_xbm_converter.md R183). -/
def State.convertedByte (s : State) (xbm : BufRef) (i : Nat) : Byte :=
  (List.range 8).foldl
    (fun v b => v ||| (BitVec.ofBool (s.xbmPixel xbm (i / s.cfg.width * 8 + b) (i % s.cfg.width))).zeroExtend 8 <<< b)
    0

/-! ## Runs -/

/-- `n` steps of the machine. -/
def steps : Nat → State → Result
  | 0, s => .next s
  | n + 1, s =>
    match step s with
    | .next s' => steps n s'
    | .fault r => .fault r
    | .refused r => .refused r

/-! ## Invariants -/

/-- The positions an operation's sequencer goes through (10_state.md R22), the lines of a chip-select frame among them
where there is one (40_transport_encoder.md R102). -/
def HasPosition (i : Instr) (s : State) : Prop :=
  (∃ t ∈ operationTransfers i s, t.pos = s.pos ∨
    s.cfg.transport = .spi4 ∧ ∃ line, s.pos = .frame t.pos line) ∨
  (∃ xbm fb p x b, i = .loadXbm (some xbm) (some fb) ∧ s.pos = .xbm p x b ∧
    p < pages s.cfg ∧ x < s.cfg.width ∧ b < 8)

/-- The sequencer is idle, or stands at a position of the latched operation, which nothing refuses. -/
def State.Coherent (s : State) : Prop :=
  s.pos = .idle ∨
  ∃ i, decodeRequest s.req = .ok i ∧ (instanceCheck s).or (bufferCheck s.cfg i) = none ∧ HasPosition i s

/-- The invariant of the machine between steps: the caller's memory is canonical, the chip select is asserted exactly
inside a frame and so released whenever the block is idle (10_state.md R24, 70_reset_and_hazards.md R229), and the
sequencer position is coherent. -/
def State.Inv (s : State) : Prop :=
  Memory.wf s.mem ∧ (s.cs = .asserted ↔ s.pos.holdsSelect = true) ∧ s.Coherent

end Sys2Proof.Machine
end

