-- ==== Sys2Proof/Certificates/Slice0/Obligations.lean ====
section
/-! DEFINITION. The statements for the provers: what the operations, the encodings, the step and the whole machine
do, each from the spec's numbered rules. -/

open Sys2Proof Sys2Proof.Machine

/-! ## Encodings -/

/-- Words of the opcode table written out bit by bit decode to the operations they stand for (30_encoding.md R81 to
R83), one or more of each format; a parameter that equals an opcode is a parameter (R89). The byte order of a word and the last clause, a row of the
table that LOAD_FB and LOAD_XBM share read as LOAD_FB null, are the model's choice (log entry 21). -/
def Obligations.TableWordsDecode : Prop :=
  decodeTableWord 8 0b10101111 = some (.displayOn 1) ∧
  decodeTableWord 8 0b01101010 = some (.setStartLine 0x2A) ∧
  decodeTableWord 8 0b11001000 = some (.setScanDir 1) ∧
  decodeTableWord 8 0b11100011 = some (.rawCmd 0xE3) ∧
  decodeTableWord 16 0b1101001100111111 = some (.setOffset 0x3F) ∧
  decodeTableWord 16 0b1000110100010100 = some (.setChargePump 1) ∧
  decodeTableWord 16 0b1000000110101110 = some (.setContrast 0xAE) ∧
  decodeTableWord 24 0b001000010000000001111111 = some (.setColWindow 0x00 0x7F) ∧
  decodeTableWord 64 0x2100_5F22_0001_2000 = some (.loadFb none)

/-- Every operation is read back from the request that selects it (30_encoding.md R95, R97; the
numbers are the spec's own choice, 92_eei_decisions.md D2). -/
def Obligations.RequestRoundTrip : Prop :=
  ∀ i : Instr, decodeRequest (encodeRequest i) = .ok i

/-- The selector of a request names the operation, and a request whose selector is 21 to 31 is refused
(30_encoding.md R97; the numbers and the refusal are the spec's own choice, 92_eei_decisions.md D2). -/
def Obligations.ReservedSelectorsRefused : Prop :=
  (∀ (r : Request) (i : Instr), decodeRequest r = .ok i → (encodeRequest i).sel = r.sel ∧ r.sel.toNat ≤ 20) ∧
  (∀ (s : State) (r : Request) (rest : List HostEvent), s.pos = .idle →
    s.port = .request r :: rest ∨ s.port = .start r :: rest →
    21 ≤ r.sel.toNat → step s = .refused .noSuchOperation)

/-- Decode and encode agree on the command stream: each of the 17 settings, with every operand its encoding
admits, is read back from its command bytes, whatever follows (30_encoding.md R81 to R85, R89). So is every raw byte
outside the opcode map; that such a byte is taken as owing no parameter is the model's choice (DESIGN CHOICE, log
entry 25): R89 says only that it came from RAW_CMD and that the reader cannot know how many bytes it owes. -/
def Obligations.CommandStreamRoundTrip : Prop :=
  ∀ (p : Params) (d : Descriptor) (i : Instr) (rest : List Byte),
    i.isMacro = false → i.wellFormed = true → (∀ v, i = .rawCmd v → findRow v = none) →
    decode (encode p d i ++ rest) = .ok (i, rest)

/-- No two setting operations share a first command byte, and the opcode map has 85 of them (30_encoding.md R88). -/
def Obligations.FirstByteIdentifiesSetting : Prop :=
  (∀ (p : Params) (d : Descriptor) (i j : Instr),
    i.isMacro = false → j.isMacro = false → (∀ v, i ≠ .rawCmd v) → (∀ v, j ≠ .rawCmd v) →
    (encode p d i).head? = (encode p d j).head? → (encodeRequest i).sel = (encodeRequest j).sel) ∧
  ((List.range 256).filter fun n => (findRow (BitVec.ofNat 8 n)).isSome).length = 85

/-- The command bytes of the three macros read, by the reader of a command stream, as the settings they expand to, in
order (30_encoding.md R89, R96). -/
def Obligations.MacroStreamsReadAsExpansions : Prop :=
  ∀ (p : Params) (d : Descriptor), legalGeometry d = true →
    decodeStream 16 (encode p d .init) =
      .ok [ .displayOn 0, .setOscFreq p.oscDefault, .setMuxRatio (BitVec.ofNat 8 (d.height - 1)), .setOffset 0,
        .setStartLine 0, .setChargePump (if p.chargePumpInit then 1 else 0), .setSegRemap 1, .setScanDir 1,
        .setComPins (if d.height = 64 then p.comPinsAlt else p.comPinsSeq), .setContrast p.contrastDefault,
        .setPrecharge p.prechargeDefault, .setVcomh p.vcomhDefault, .setWholeOn 0, .setAddrMode 0,
        .setInversion 0, .displayOn 1 ] ∧
        (∀ buf : Option BufRef, decodeStream 3 (encode p d (.loadFb buf)) =
      .ok [ .setColWindow 0 (BitVec.ofNat 8 (d.width - 1)),
        .setPageWindow 0 (BitVec.ofNat 8 (d.height / 8 - 1)), .setAddrMode 0 ]) ∧
    ∀ xbm fb : Option BufRef, decodeStream 3 (encode p d (.loadXbm xbm fb)) =
      .ok [ .setColWindow 0 (BitVec.ofNat 8 (d.width - 1)),
        .setPageWindow 0 (BitVec.ofNat 8 (d.height / 8 - 1)), .setAddrMode 0 ]

/-! ## The Transport Encoder -/

/-- TxSend under I2C makes exactly one transaction, opened by the control byte of the tag; the status is the bus
primitive's, and no pin is touched (40_transport_encoder.md R101). -/
def Obligations.TxSendI2cOneTransaction : Prop :=
  ∀ (tag : Tag) (bytes : List Byte) (s : State), s.cfg.transport = .i2c →
    txSend tag bytes s =
      ((s.answerAt 0).status,
       { s with
          trace := s.trace ++
            [.i2c s.cfg.i2cAddr ((if tag = .data then 0x40 else 0x00) :: bytes) (s.answerAt 0).status]
          stream := s.stream ++ taggedUnder (tag, bytes) (s.answerAt 0)
          busIn := s.busIn.tail
          busCount := s.busCount + 1 })

/-- TxSend under 4-wire SPI makes four events in order: data/command pin, chip select asserted, the bytes, chip
select deasserted, whatever the status; the data/command pin keeps its level (40_transport_encoder.md R102; the order of the two pins
and pins that cannot fail are the spec's own choices, 92_eei_decisions.md D7 and D8, log entries 8 and 9). -/
def Obligations.TxSendSpi4Frame : Prop :=
  ∀ (tag : Tag) (bytes : List Byte) (s : State), s.cfg.transport = .spi4 →
    txSend tag bytes s =
      ((s.answerAt 0).status,
       { s with
          trace := s.trace ++
            [ .pin s.cfg.dcPin (if tag = .data then .high else .low),
              .pin s.cfg.csPin s.params.csActiveLevel,
              .spi bytes (s.answerAt 0).status,
              .pin s.cfg.csPin (if s.params.csActiveLevel = .low then .high else .low) ]
          stream := s.stream ++ taggedUnder (tag, bytes) (s.answerAt 0)
          busIn := s.busIn.tail
          busCount := s.busCount + 1
          cs := .deasserted
          dc := if tag = .data then .high else .low })

/-- Under 3-wire SPI every call of TxSend answers ERR_UNSUPPORTED with no event and no pin write, and every
operation that is not refused ends with that status and sends nothing (40_transport_encoder.md R103,
60_exceptions.md R191). -/
def Obligations.UnsupportedTransportSendsNothing : Prop :=
  (∀ (tag : Tag) (bytes : List Byte) (s : State), s.cfg.transport = .spi3 →
    txSend tag bytes s = (s.params.errUnsupported, s)) ∧
  (∀ (i : Instr) (s t : State), s.cfg.transport = .spi3 → exec i s = .next t →
    t.status = some s.params.errUnsupported ∧ s.params.errUnsupported ≠ 0 ∧ t.pos = .idle ∧
    t.trace = s.trace ∧ t.stream = s.stream ∧ t.busIn = s.busIn ∧ t.busCount = s.busCount ∧
    t.cs = s.cs ∧ t.dc = s.dc)

/-- The status law of TxSend: 0 exactly when the transport is supported and its bus write returned 0; otherwise
ERR_UNSUPPORTED or exactly the bus primitive's value; at most one bus write (40_transport_encoder.md R104). -/
def Obligations.TxSendStatusLaw : Prop :=
  ∀ (tag : Tag) (bytes : List Byte) (s : State), s.params.errUnsupported ≠ 0 →
    ((txSend tag bytes s).1 = 0 ↔ s.cfg.transport ≠ .spi3 ∧ (s.answerAt 0).status = 0) ∧
    (txSend tag bytes s).1 = (if s.cfg.transport = .spi3 then s.params.errUnsupported else (s.answerAt 0).status) ∧
    (txSend tag bytes s).2.busCount = (if s.cfg.transport = .spi3 then s.busCount else s.busCount + 1)

/-- CmdSeq sends a command sequence byte by byte under PerByte, aborting at the first failing byte, and as one
transfer under PerCommand (40_transport_encoder.md R106). -/
def Obligations.CmdSeqGroupings : Prop :=
  ∀ (place : Nat → Pos) (v : Byte) (vs : List Byte) (s : State), s.params.errUnsupported ≠ 0 →
    runTransfers (cmdSeq .perByte place (v :: vs)) s =
      s.afterSending ((v :: vs).map fun b => (.cmd, [b])) ∧
    runTransfers (cmdSeq .perCommand place (v :: vs)) s = s.afterSending [(.cmd, v :: vs)]

/-! ## The operations: results and completion -/

/-- The six operations with a Boolean operand send the byte or bytes their rules list, for every operand byte, and
leave the state the transfers leave (41_command_protocol.md R121, R124, R126, R127, R130, R137;
the truth rule and the polarities are the spec's own choices, 92_eei_decisions.md D4 and D5, log entry 19). -/
def Obligations.TwoWaySettings : Prop :=
  ∀ (s : State) (a : Byte), s.Ready →
    exec (.displayOn a) s = .next (s.afterSending
      (commandUnits s.params.cmdGrouping [if a = 0 then 0xAE else 0xAF])) ∧
    exec (.setChargePump a) s = .next (s.afterSending
      (commandUnits s.params.cmdGrouping [0x8D, if a = 0 then 0x10 else 0x14])) ∧
    exec (.setSegRemap a) s = .next (s.afterSending
      (commandUnits s.params.cmdGrouping [if a = 0 then 0xA0 else 0xA1])) ∧
    exec (.setScanDir a) s = .next (s.afterSending
      (commandUnits s.params.cmdGrouping [if a = 0 then 0xC0 else 0xC8])) ∧
    exec (.setInversion a) s = .next (s.afterSending
      (commandUnits s.params.cmdGrouping [if a = 0 then 0xA6 else 0xA7])) ∧
    exec (.setWholeOn a) s = .next (s.afterSending
      (commandUnits s.params.cmdGrouping [if a = 0 then 0xA4 else 0xA5]))

/-- The four operations with a masked operand send their operand reduced by the mask, for every operand byte
(41_command_protocol.md R122, R123, R125, R132). The remainders are those of the closed forms of
95_test_vectors.md V-CMD. -/
def Obligations.MaskedSettings : Prop :=
  ∀ (s : State) (a : Byte), s.Ready →
    exec (.setStartLine a) s = .next (s.afterSending
      (commandUnits s.params.cmdGrouping [BitVec.ofNat 8 (0x40 + a.toNat % 64)])) ∧
    exec (.setOffset a) s = .next (s.afterSending
      (commandUnits s.params.cmdGrouping [0xD3, BitVec.ofNat 8 (a.toNat % 64)])) ∧
    exec (.setAddrMode a) s = .next (s.afterSending
      (commandUnits s.params.cmdGrouping [0x20, BitVec.ofNat 8 (a.toNat % 4)])) ∧
    exec (.setMuxRatio a) s = .next (s.afterSending
      (commandUnits s.params.cmdGrouping [0xA8, BitVec.ofNat 8 (a.toNat % 64)]))

/-- The operations with an unmasked operand send all 8 bits of it unchanged (41_command_protocol.md R128, R129, R131,
R135, R136), and RAW_CMD sends its byte alone (40_transport_encoder.md R107). -/
def Obligations.UnmaskedSettings : Prop :=
  ∀ (s : State) (a : Byte), s.Ready →
    exec (.setComPins a) s = .next (s.afterSending (commandUnits s.params.cmdGrouping [0xDA, a])) ∧
    exec (.setContrast a) s = .next (s.afterSending (commandUnits s.params.cmdGrouping [0x81, a])) ∧
    exec (.setOscFreq a) s = .next (s.afterSending (commandUnits s.params.cmdGrouping [0xD5, a])) ∧
    exec (.setPrecharge a) s = .next (s.afterSending (commandUnits s.params.cmdGrouping [0xD9, a])) ∧
    exec (.setVcomh a) s = .next (s.afterSending (commandUnits s.params.cmdGrouping [0xDB, a])) ∧
    exec (.rawCmd a) s = .next (s.afterSending (commandUnits s.params.cmdGrouping [a]))

/-- The two window operations send opcode, start and stop unmasked (41_command_protocol.md R133, R134). -/
def Obligations.WindowSettings : Prop :=
  ∀ (s : State) (a b : Byte), s.Ready →
    exec (.setColWindow a b) s = .next (s.afterSending (commandUnits s.params.cmdGrouping [0x21, a, b])) ∧
    exec (.setPageWindow a b) s = .next (s.afterSending (commandUnits s.params.cmdGrouping [0x22, a, b]))

/-- RAW_CMD and the 17 settings, whatever their operands, send exactly the command bytes of the encoding tables
(30_encoding.md R80 to R85): the meanings agree with the bit patterns. -/
def Obligations.CommandsSendTheirEncoding : Prop :=
  ∀ (i : Instr) (s : State), s.Ready → i.isMacro = false →
    exec i s = .next (s.afterSending (commandUnits s.params.cmdGrouping (encode s.params s.cfg i)))

/-- INIT sends the 16 command sequences of its table in order, stops at the first write that fails, and returns
its status; the COM pin byte is looked up by the height (42_init_sequencer.md R150 to R152). -/
def Obligations.InitSendsItsTable : Prop :=
  ∀ s : State, s.Ready → exec .init s = .next (s.afterSending (initUnits s.params s.cfg.height))

/-- LOAD_FB sends the column window, the page window, mode Horizontal and then FB_SIZE data bytes in chunks: the
buffer's bytes in order, or zeros when the buffer is null; it stops at the first write that fails
(43_frame_buffer_transfer.md R160, R163, R164; how chunks are
counted is 92_eei_decisions.md D10). -/
def Obligations.LoadFbSendsWindowsAndData : Prop :=
  ∀ s : State, s.Ready →
    exec (.loadFb none) s = .next (s.afterSending
      (loadUnits s.params s.cfg (List.replicate (s.cfg.width * s.cfg.height / 8) 0x00))) ∧
    ∀ buf : BufRef, FbAdmitted s.cfg buf →
      exec (.loadFb (some buf)) s = .next (s.afterSending
        (loadUnits s.params s.cfg (s.bufferBytes buf (s.cfg.width * s.cfg.height / 8))))

/-- LOAD_XBM stores the converted image in the frame buffer, changes no other byte of memory, sends what LOAD_FB
sends for the image, and leaves every other field as those transfers leave it but for its accumulator
(44_xbm_converter.md R175, R178, R179). -/
def Obligations.LoadXbmConvertsAndSends : Prop :=
  ∀ (s : State) (xbm fb : BufRef), s.Ready → Memory.wf s.mem → XbmAdmitted s.cfg xbm fb →
    ∃ t, exec (.loadXbm (some xbm) (some fb)) s = .next t ∧
      Memory.wf t.mem ∧
      (∀ i, i < s.cfg.width * s.cfg.height / 8 → Memory.read t.mem (fb.base + i) = s.convertedByte xbm i) ∧
      (∀ a, ¬ (fb.base ≤ a ∧ a < fb.base + s.cfg.width * s.cfg.height / 8) →
        Memory.read t.mem a = Memory.read s.mem a) ∧
      t = { s.afterSending (loadUnits s.params s.cfg
              ((List.range (s.cfg.width * s.cfg.height / 8)).map (s.convertedByte xbm))) with
            mem := t.mem, acc := t.acc }

/-- Every operation of the opcode table completes with status 0 where the transport is supported, nothing refuses it
and the driver accepts its writes: the target receives its command bytes, and for the two loads the frame
buffer's bytes as data, in order and nothing else (00_scope.md R12, 30_encoding.md R96, 40_transport_encoder.md R104). -/
def Obligations.OperationsSucceedOnHealthyBus : Prop :=
  ∀ (i : Instr) (s : State), s.Ready → bufferCheck s.cfg i = none → s.cfg.transport ≠ .spi3 →
    s.BusAccepts ((encode s.params s.cfg i).length + fbSize s.cfg) →
    ∃ t, exec i s = .next t ∧ t.status = some 0 ∧ t.pos = .idle ∧
      t.stream = s.stream ++ (encode s.params s.cfg i).map (fun v => (.cmd, v)) ++
        (match i with
          | .loadFb none => List.replicate (fbSize s.cfg) (.data, 0x00)
          | .loadFb (some buf) => (s.bufferBytes buf (fbSize s.cfg)).map fun v => (.data, v)
          | .loadXbm _ (some fb) => (t.bufferBytes fb (fbSize s.cfg)).map fun v => (.data, v)
          | _ => [])

/-- Every operation that nothing refuses ends: idle, with a status (10_state.md R22, R23), provided every bus write
returns (45_sequencing_memory_system_classes.md R251, 70_reset_and_hazards.md R240): that it does is the model's
assumption (PRESUMED, log entry 20). -/
def Obligations.AdmittedOperationsEnd : Prop :=
  ∀ (i : Instr) (s : State), s.Ready → bufferCheck s.cfg i = none →
    ∃ t, exec i s = .next t ∧ t.pos = .idle ∧ t.status ≠ none

/-! ## Failures -/

/-- The first failing bus write ends the operation with its own status, and no write is made after it; an operation
all of whose writes were accepted returns 0 (60_exceptions.md R192, R196, R197). -/
def Obligations.FirstFailingWriteEndsOperation : Prop :=
  (∀ (i : Instr) (s t : State) (k : Nat) (st : Status), s.cfg.transport ≠ .spi3 → exec i s = .next t →
    s.BusFailsAt k st → s.busCount + k < t.busCount →
    t.status = some st ∧ t.busCount = s.busCount + k + 1) ∧
  (∀ (i : Instr) (s t : State), s.cfg.transport ≠ .spi3 → exec i s = .next t →
    s.BusAccepts (t.busCount - s.busCount) → t.status = some 0)

/-- Under 4-wire SPI every operation ends, in success or failure, with the chip select released, and the release is
the last event of its trace (40_transport_encoder.md R102, 70_reset_and_hazards.md R229). -/
def Obligations.ChipSelectReleasedOnEveryExit : Prop :=
  ∀ (i : Instr) (s t : State), s.cfg.transport = .spi4 → exec i s = .next t →
    t.cs = .deasserted ∧
    t.trace.getLast? = some (.pin s.cfg.csPin (if s.params.csActiveLevel = .low then .high else .low))

/-- No operation depends on what an earlier one left behind: the latched request, the last status, the pin levels, the
accumulator and the outputs so far change neither its status nor the events and bytes it adds
(60_exceptions.md R199, 90_conflicts.md C5). -/
def Obligations.NothingCarriesBetweenOperations : Prop :=
  ∀ (i : Instr) (s t : State) (req : Request) (status : Option Status) (cs : ChipSelect) (dc : DataCommand)
    (acc : Byte) (port : List HostEvent) (trace : List Event) (stream : List TaggedByte), exec i s = .next t →
    ∃ (t' : State) (events : List Event) (bytes : List TaggedByte),
      exec i { s with
        req := req, status := status, cs := cs, dc := dc, acc := acc, port := port, trace := trace,
        stream := stream } = .next t' ∧
      t'.status = t.status ∧ t'.mem = t.mem ∧ t'.busCount = t.busCount ∧
      t.trace = s.trace ++ events ∧ t'.trace = trace ++ events ∧
      t.stream = s.stream ++ bytes ∧ t'.stream = stream ++ bytes

/-! ## Frames -/

/-- Every operation but LOAD_XBM leaves the descriptor, the parameters, the latched request, the accumulator, the port
and every byte of memory alone, and the pins too unless the transport is 4-wire SPI
(41_command_protocol.md R120, 42_init_sequencer.md R150, 43_frame_buffer_transfer.md R160,
45_sequencing_memory_system_classes.md R253). -/
def Obligations.NonConvertingFrame : Prop :=
  ∀ (i : Instr) (s t : State), (∀ xbm fb, i ≠ .loadXbm xbm fb) → exec i s = .next t →
    t.cfg = s.cfg ∧ t.params = s.params ∧ t.req = s.req ∧ t.acc = s.acc ∧ t.port = s.port ∧
    (∀ a, Memory.read t.mem a = Memory.read s.mem a) ∧
    (s.cfg.transport ≠ .spi4 → t.cs = s.cs ∧ t.dc = s.dc)

/-- LOAD_XBM leaves the descriptor, the parameters, the latched request, the port and every byte of memory outside the
frame buffer's FB_SIZE bytes alone, the source bitmap among them, and the pins too unless the transport is 4-wire
SPI (44_xbm_converter.md R175, R178, 45_sequencing_memory_system_classes.md R253). -/
def Obligations.LoadXbmFrame : Prop :=
  ∀ (s t : State) (xbm fb : BufRef), exec (.loadXbm (some xbm) (some fb)) s = .next t →
    t.cfg = s.cfg ∧ t.params = s.params ∧ t.req = s.req ∧ t.port = s.port ∧
    (∀ a, ¬ (fb.base ≤ a ∧ a < fb.base + fbSize s.cfg) → Memory.read t.mem a = Memory.read s.mem a) ∧
    (∀ i, i < xbmSize s.cfg → Memory.read t.mem (xbm.base + i) = Memory.read s.mem (xbm.base + i)) ∧
    (s.cfg.transport ≠ .spi4 → t.cs = s.cs ∧ t.dc = s.dc)

/-- No step writes the descriptor or the parameters unless the host supplies a descriptor (10_state.md R25,
70_reset_and_hazards.md R235; that the host can do so between operations is log entry 28). -/
def Obligations.DescriptorIsNeverWritten : Prop :=
  ∀ s t : State, step s = .next t → (∀ d rest, s.port ≠ .configure d :: rest) →
    t.cfg = s.cfg ∧ t.params = s.params

/-- LOAD_FB looks at FB_SIZE bytes of its buffer and at no other byte of memory (20_memory.md R58). -/
def Obligations.LoadFbReadsOnlyItsBuffer : Prop :=
  ∀ (s t : State) (buf : BufRef) (mem : Memory), exec (.loadFb (some buf)) s = .next t →
    (∀ i, i < fbSize s.cfg → Memory.read mem (buf.base + i) = Memory.read s.mem (buf.base + i)) →
    exec (.loadFb (some buf)) { s with mem := mem } = .next { t with mem := mem }

/-! ## The transfer -/

/-- A null buffer gives exactly what an all-zero buffer gives (43_frame_buffer_transfer.md R163). -/
def Obligations.NullBufferEqualsZeroBuffer : Prop :=
  ∀ (s : State) (buf : BufRef), s.Ready → FbAdmitted s.cfg buf →
    (∀ i, i < fbSize s.cfg → Memory.read s.mem (buf.base + i) = 0x00) →
    exec (.loadFb none) s = exec (.loadFb (some buf)) s

/-- Chunking is transparent: two runs of an operation that differ in MAX_CHUNK alone and both succeed deliver the same
tagged bytes in the same order (43_frame_buffer_transfer.md R165). -/
def Obligations.ChunkingTransparent : Prop :=
  ∀ (i : Instr) (s t u : State) (m n : Nat), exec i s = .next t →
    exec i { s with params := { s.params with maxChunkI2c := m, maxChunkSpi := n } } = .next u →
    t.status = some 0 → u.status = some 0 → u.stream = t.stream

/-- The grouping of command bytes and the transport are transparent too: two runs of an operation that differ in them
alone and both succeed deliver the same tagged bytes in the same order
(00_scope.md R12, 40_transport_encoder.md R106). -/
def Obligations.GroupingAndTransportTransparent : Prop :=
  ∀ (i : Instr) (s t u : State) (g : CmdGrouping) (transport : Transport), exec i s = .next t →
    exec i { s with
      params := { s.params with cmdGrouping := g }, cfg := { s.cfg with transport := transport } } = .next u →
    t.status = some 0 → u.status = some 0 → u.stream = t.stream

/-- INIT that succeeds makes 25 bus writes under PerByte and 16 under PerCommand: as many I2C events, and four times
as many under 4-wire SPI (42_init_sequencer.md R154). -/
def Obligations.InitWriteCount : Prop :=
  ∀ s t : State, exec .init s = .next t → t.status = some 0 →
    t.busCount = s.busCount + (match s.params.cmdGrouping with | .perByte => 25 | .perCommand => 16) ∧
    t.trace.length = s.trace.length +
      (match s.params.cmdGrouping with | .perByte => 25 | .perCommand => 16) *
      (match s.cfg.transport with | .spi4 => 4 | _ => 1)

/-- LOAD_FB that succeeds makes 8 command writes under PerByte, or 3 under PerCommand, and one write for each chunk
(43_frame_buffer_transfer.md R168). -/
def Obligations.LoadFbWriteCount : Prop :=
  ∀ (s t : State) (buf : Option BufRef), exec (.loadFb buf) s = .next t → t.status = some 0 →
    t.busCount = s.busCount + (match s.params.cmdGrouping with | .perByte => 8 | .perCommand => 3) +
      (fbSize s.cfg + maxChunk s.params s.cfg.transport - 1) / maxChunk s.params s.cfg.transport

/-! ## The converter -/

/-- The derived quantities of a legal geometry (00_scope.md R8). -/
def Obligations.LegalGeometryQuantities : Prop :=
  ∀ d : Descriptor, legalGeometry d = true →
    fbSize d * 8 = d.width * d.height ∧ pages d * 8 = d.height ∧ xbmStride d * 8 = d.width ∧
    xbmSize d = xbmStride d * d.height ∧ xbmSize d = fbSize d ∧ fbSize d = pages d * d.width

/-- Every offset the converter reads or writes lies inside its buffer, and the largest ones are the last bytes
(20_memory.md R58). -/
def Obligations.ConverterStaysInBounds : Prop :=
  ∀ d : Descriptor, legalGeometry d = true →
    (∀ p x b, p < pages d → x < d.width → b < 8 →
      xbmOffset d (p * 8 + b) x < xbmSize d ∧ fbOffset d p x < fbSize d) ∧
    xbmOffset d (d.height - 1) (d.width - 1) = xbmSize d - 1 ∧
    fbOffset d (pages d - 1) (d.width - 1) = fbSize d - 1

/-- The closed form of the conversion, byte by byte and block by block; the old frame buffer plays no part
(44_xbm_converter.md R183). -/
def Obligations.ConversionClosedForm : Prop :=
  ∀ (s t : State) (xbm fb : BufRef), Memory.wf s.mem → exec (.loadXbm (some xbm) (some fb)) s = .next t →
    (∀ i b, i < s.cfg.width * s.cfg.height / 8 → b < 8 →
      (Memory.read t.mem (fb.base + i)).getLsbD b =
        (Memory.read s.mem (xbm.base + ((i / s.cfg.width * 8 + b) * ((s.cfg.width + 7) / 8) +
          i % s.cfg.width / 8))).getLsbD (i % s.cfg.width % 8)) ∧
    (∀ p j k b, p < s.cfg.height / 8 → j < (s.cfg.width + 7) / 8 → k < 8 → b < 8 →
      (Memory.read t.mem (fb.base + (p * s.cfg.width + 8 * j + k))).getLsbD b =
        (Memory.read s.mem (xbm.base + ((p * 8 + b) * ((s.cfg.width + 7) / 8) + j))).getLsbD k)

/-- The conversion keeps every pixel of the panel (20_memory.md R51, R52, 44_xbm_converter.md R176). -/
def Obligations.ConversionKeepsPixels : Prop :=
  ∀ (s t : State) (xbm fb : BufRef) (r c : Nat), Memory.wf s.mem →
    exec (.loadXbm (some xbm) (some fb)) s = .next t → r < s.cfg.height → c < s.cfg.width →
    t.fbPixel fb r c = s.xbmPixel xbm r c

/-- A bitmap with the one set pixel at row `r`, column `c` becomes a frame buffer with the one set bit at page
`r/8`, column `c`, bit `r%8` (44_xbm_converter.md R180). -/
def Obligations.SinglePixelImage : Prop :=
  ∀ (s t : State) (xbm fb : BufRef) (r c : Nat), Memory.wf s.mem →
    exec (.loadXbm (some xbm) (some fb)) s = .next t → r < s.cfg.height → c < s.cfg.width →
    (∀ i, i < xbmSize s.cfg → Memory.read s.mem (xbm.base + i) =
      if i = r * xbmStride s.cfg + c / 8 then 1#8 <<< (c % 8) else 0) →
    ∀ i, i < fbSize s.cfg → Memory.read t.mem (fb.base + i) =
      if i = r / 8 * s.cfg.width + c then 1#8 <<< (r % 8) else 0

/-- The conversion is linear over bitwise OR (44_xbm_converter.md R180). -/
def Obligations.ConversionLinearOverOr : Prop :=
  ∀ (s₁ s₂ s₃ t₁ t₂ t₃ : State) (xbm fb : BufRef),
    Memory.wf s₁.mem → Memory.wf s₂.mem → Memory.wf s₃.mem → s₂.cfg = s₁.cfg → s₃.cfg = s₁.cfg →
    exec (.loadXbm (some xbm) (some fb)) s₁ = .next t₁ → exec (.loadXbm (some xbm) (some fb)) s₂ = .next t₂ →
    exec (.loadXbm (some xbm) (some fb)) s₃ = .next t₃ →
    (∀ i, i < xbmSize s₁.cfg → Memory.read s₃.mem (xbm.base + i) =
      Memory.read s₁.mem (xbm.base + i) ||| Memory.read s₂.mem (xbm.base + i)) →
    ∀ i, i < fbSize s₁.cfg → Memory.read t₃.mem (fb.base + i) =
      Memory.read t₁.mem (fb.base + i) ||| Memory.read t₂.mem (fb.base + i)

/-- LOAD_XBM is its conversion followed by LOAD_FB of the converted buffer: on the memory it leaves, LOAD_FB sends the
same events and ends alike (44_xbm_converter.md R179). -/
def Obligations.LoadXbmHandsOffToLoadFb : Prop :=
  ∀ (s t : State) (xbm fb : BufRef), exec (.loadXbm (some xbm) (some fb)) s = .next t →
    exec (.loadFb (some fb)) { s with mem := t.mem } = .next { t with acc := s.acc }

/-- The conversion is complete whatever becomes of the transfer: the frame buffer holds the image also under 3-wire
SPI, where nothing is sent, and after a bus failure (44_xbm_converter.md R182, 92_eei_decisions.md D17: the
model's choice is log entry 14). -/
def Obligations.ConversionSurvivesFailedTransfer : Prop :=
  ∀ (s t : State) (xbm fb : BufRef), Memory.wf s.mem → exec (.loadXbm (some xbm) (some fb)) s = .next t →
    (∀ i, i < fbSize s.cfg → Memory.read t.mem (fb.base + i) = s.convertedByte xbm i) ∧
    (s.cfg.transport = .spi3 → t.status = some s.params.errUnsupported ∧ t.trace = s.trace ∧ t.stream = s.stream)

/-! ## Refusals -/

/-- While an operation is in progress every other one is refused, and so is anything but a reset that the host
presents: a request, a request to start, a descriptor, a byte stored (60_exceptions.md R208; the refusal is the
spec's own choice, 92_eei_decisions.md D20, log entry 13). `pass` presents nothing (log entry 10). -/
def Obligations.BusyBlockRefuses : Prop :=
  (∀ (i : Instr) (s : State), s.pos ≠ .idle → exec i s = .refused .busy) ∧
  (∀ (s : State) (e : HostEvent) (rest : List HostEvent), s.pos ≠ .idle → s.port = e :: rest →
    e ≠ .reset → e ≠ .pass → step s = .refused .busy)

/-- An idle block refuses every operation of an instance whose parameters lie outside their domains, and every
operation with a descriptor outside the geometry invariant (00_scope.md R7, R9; the refusals are the spec's own
choice, 92_eei_decisions.md D15, and the model's, log entry 12). -/
def Obligations.IllegalInstanceRefused : Prop :=
  (∀ (i : Instr) (s : State), s.pos = .idle →
    s.params.maxChunkI2c < 1 ∨ s.params.maxChunkSpi < 1 ∨ s.params.errUnsupported = 0 →
    exec i s = .refused .illegalParameters) ∧
  (∀ (i : Instr) (s : State), s.pos = .idle → 1 ≤ s.params.maxChunkI2c → 1 ≤ s.params.maxChunkSpi →
    s.params.errUnsupported ≠ 0 →
    ¬ ((s.cfg.width = 96 ∨ s.cfg.width = 128) ∧ (s.cfg.height = 16 ∨ s.cfg.height = 32 ∨ s.cfg.height = 64)) →
    exec i s = .refused .illegalDescriptor)

/-- Null, short and overlapping buffers are refused; LOAD_FB's null alone is not, and it is a null that the request
marks: a LOAD_FB request that is not marked null and names no buffer is refused (44_xbm_converter.md R181,
20_memory.md R55, 60_exceptions.md R194; the refusals are the spec's own choice, 92_eei_decisions.md D18, log
entries 11 and 30). -/
def Obligations.BadBuffersRefused : Prop :=
  (∀ (s : State) (xbm fb : BufRef) (buf : Option BufRef), s.Ready →
    exec (.loadXbm none buf) s = .refused .nullBuffer ∧
    exec (.loadXbm buf none) s = .refused .nullBuffer ∧
    (∃ t, exec (.loadFb none) s = .next t) ∧
    (fb.len < fbSize s.cfg → exec (.loadFb (some fb)) s = .refused .shortBuffer) ∧
    (xbm.len < xbmSize s.cfg ∨ fb.len < fbSize s.cfg →
      exec (.loadXbm (some xbm) (some fb)) s = .refused .shortBuffer) ∧
    (xbmSize s.cfg ≤ xbm.len → fbSize s.cfg ≤ fb.len →
      xbm.base < fb.base + fb.len → fb.base < xbm.base + xbm.len →
      exec (.loadXbm (some xbm) (some fb)) s = .refused .overlappingBuffers)) ∧
  (∀ (s : State) (r : Request) (rest : List HostEvent), s.pos = .idle →
    s.port = .request r :: rest ∨ s.port = .start r :: rest →
    r.sel = 2 → r.fbNull = false → r.fb = none → step s = .refused .missingBuffer)

/-! ## The step, reset and the host -/

/-- A step of the idle block runs the operation of the request the host presents: the request is taken from the port
and latched, and the step is exec of the operation (10_state.md R21). -/
def Obligations.StepRunsPresentedRequest : Prop :=
  ∀ (s : State) (r : Request) (rest : List HostEvent) (i : Instr), s.pos = .idle →
    s.port = .request r :: rest → decodeRequest r = .ok i → step s = exec i { s with port := rest, req := r }

/-- A word placed for the step is fetched and run as the instruction the decoder reads from it. The hardware fetches no
words: it is asked by requests (10_state.md R21, R22), and that a word of the opcode table stands for one, and how
it is read and placed, are the model's choice (log entries 21 and 22). -/
def Obligations.FetchedWordRuns : Prop :=
  ∀ (s : State) (nbits w : Nat) (i : Instr), decodeTableWord nbits w = some i →
    step (s.withFetchWord nbits w) = exec i { s with pos := .idle, req := encodeRequest i }

/-- The reset event abandons whatever is in progress with no status: the position becomes Idle, the chip select is
released, the data/command pin is not driven, nothing is sent, and descriptor and memory stay
(70_reset_and_hazards.md R220; the event is the spec's own choice, 92_eei_decisions.md D19; that it leaves the
latched request and the accumulator as they were is log entry 17). -/
def Obligations.ResetEventAbandonsOperation : Prop :=
  ∀ (s : State) (rest : List HostEvent), s.port = .reset :: rest →
    step s = .next { s with
      port := rest, pos := .idle, status := none, cs := .deasserted, dc := .unknown }

/-- The values the spec gives for reset (10_state.md R32, 92_eei_decisions.md D19). -/
def Obligations.ResetValues : Prop :=
  State.reset.pos = .idle ∧ State.reset.status = none ∧ State.reset.cs = .deasserted ∧
  State.reset.dc = .unknown ∧
  ∀ s : State, s.resetEvent.pos = .idle ∧ s.resetEvent.status = none ∧ s.resetEvent.cs = .deasserted ∧
    s.resetEvent.dc = .unknown ∧ s.resetEvent.cfg = s.cfg ∧ s.resetEvent.mem = s.mem

/-- The idle block with nothing presented stays as it is: it never starts an operation by itself
(45_sequencing_memory_system_classes.md R250; that a step then answers the same state is log entry 26). -/
def Obligations.IdleBlockWaits : Prop :=
  ∀ s : State, s.pos = .idle →
    (s.port = [] → step s = .next s) ∧ (∀ rest, s.port = .pass :: rest → step s = .next { s with port := rest })

/-- A request to start stands the idle block at its operation's first position, latched, when nothing refuses it; and
a step of a block inside an operation, with nothing presented, is one move of its sequencer
(10_state.md R21, R22, 45_sequencing_memory_system_classes.md R251; one position a step is log entry 10). -/
def Obligations.StepInsideOperationIsTick : Prop :=
  (∀ (s : State) (r : Request) (rest : List HostEvent) (i : Instr), s.pos = .idle → s.port = .start r :: rest →
    decodeRequest r = .ok i → (instanceCheck s).or (bufferCheck s.cfg i) = none →
    step s = .next (beginOperation i { s with port := rest, req := r })) ∧
  (∀ s : State, s.pos ≠ .idle →
    (s.port = [] → step s = tick s) ∧ (∀ rest, s.port = .pass :: rest → step s = tick { s with port := rest }))

/-- A reset event reaches the inside of a chip-select frame: under 4-wire SPI the fourth step of an operation that was
started can find the chip select asserted, and a reset then releases it, ends the operation with no status and
sends nothing (70_reset_and_hazards.md R220, 40_transport_encoder.md R102; the lines of the frame as positions are
log entry 10, the event is the spec's own choice, 92_eei_decisions.md D19). -/
def Obligations.ResetReachesInsideFrame : Prop :=
  ∀ (s : State) (r : Request) (rest : List HostEvent) (i : Instr), s.Ready → s.cfg.transport = .spi4 →
    decodeRequest r = .ok i → bufferCheck s.cfg i = none → (∀ xbm fb, i ≠ .loadXbm xbm fb) →
    s.port = .start r :: .pass :: .pass :: .reset :: rest →
    ∃ u, steps 3 s = .next u ∧ u.cs = .asserted ∧ u.pos ≠ .idle ∧ u.stream = s.stream ∧ u.busCount = s.busCount ∧
      steps 4 s = .next { u with port := rest, pos := .idle, status := none, cs := .deasserted, dc := .unknown }

/-- Between operations the host supplies a descriptor and the caller stores bytes in its memory, and nothing else
changes (20_memory.md R50, 70_reset_and_hazards.md R221, R235; the port is log entry 22). -/
def Obligations.HostActsBetweenOperations : Prop :=
  ∀ (s : State) (rest : List HostEvent), s.pos = .idle →
    (∀ d, s.port = .configure d :: rest → step s = .next { s with port := rest, cfg := d }) ∧
    (∀ a v, s.port = .store a v :: rest → Memory.wf s.mem →
      ∃ m, step s = .next { s with port := rest, mem := m } ∧ Memory.wf m ∧ Memory.read m a = v ∧
        ∀ a', a' ≠ a → Memory.read m a' = Memory.read s.mem a')

/-! ## Invariants and the sequencer -/

/-- The invariant holds at reset: the memory is canonical, the chip select released, the block idle
(10_state.md R24, R32). -/
def Obligations.ResetMeetsInvariant : Prop := State.reset.Inv

/-- Every step keeps the invariant: the memory stays canonical, the chip select is asserted exactly inside a frame and
so released whenever the block is idle, and the sequencer stands at a position of the latched operation or idle (10_state.md R22, R24, 70_reset_and_hazards.md R229). -/
def Obligations.StepKeepsInvariant : Prop :=
  ∀ s t : State, s.Inv → step s = .next t → t.Inv

/-- No step faults from a state that meets the invariant: failed operations are statuses, never faults
(60_exceptions.md R190, R194). -/
def Obligations.InvariantRulesOutFaults : Prop :=
  ∀ (s : State) (f : Fault), s.Inv → step s ≠ .fault f

/-- An operation that is started and left alone, step by step to Idle, one position at a time, reaches exactly the state
that exec answers in one step (10_state.md R22, 45_sequencing_memory_system_classes.md R251, R252; that exec is one
step is the model's choice, log entry 10). -/
def Obligations.ExecIsSequencerRunToIdle : Prop :=
  ∀ (i : Instr) (s t : State) (r : Request) (rest : List HostEvent), s.pos = .idle → decodeRequest r = .ok i →
    exec i { s with port := rest, req := r } = .next t →
    ∃ n, steps (n + 1) { s with port := .start r :: (List.replicate n .pass ++ rest) } = .next t

/-- Equal reads are equal memories: the canonical form has one list for each content (20_memory.md R50; the form is
log entry 2). -/
def Obligations.CanonicalMemoriesAreEqual : Prop :=
  ∀ m n : Memory, Memory.wf m → Memory.wf n → (∀ a, Memory.read m a = Memory.read n a) → m = n

/-! ## The wire and the reference sink -/

/-- The tags can be read back from the wire: from the events of an operation that succeeded, the control bytes under
I2C and the level of the data/command pin under SPI give exactly the tagged bytes delivered
(20_memory.md R73, 30_encoding.md R86, R87). -/
def Obligations.WireTagsReadBack : Prop :=
  ∀ (i : Instr) (s t : State), exec i s = .next t → t.status = some 0 → s.cfg.csPin ≠ s.cfg.dcPin →
    ∃ events bytes, t.trace = s.trace ++ events ∧ t.stream = s.stream ++ bytes ∧
      readWire s.cfg.dcPin none events = bytes

/-- After a successful LOAD_FB the display RAM of the reference sink equals the frame buffer, or is zero for a null
buffer, whatever the sink's mode, windows and pointer were before; then its mode is Horizontal and its windows are the whole panel (20_memory.md R74; the sink's pointer rules are log entry 24, and R74's premise that
every accepted write reached the sink is log entry 7). -/
def Obligations.LoadFbFillsDisplayRam : Prop :=
  ∀ (s t : State) (buf : Option BufRef) (k : Sink), exec (.loadFb buf) s = .next t → t.status = some 0 →
    Memory.wf k.ram → k.pending = [] →
    ∃ bytes k', t.stream = s.stream ++ bytes ∧ Sink.run bytes k = .ok k' ∧
      (∀ p x, p < pages s.cfg → x < s.cfg.width →
        k'.ramAt (BitVec.ofNat 8 p) (BitVec.ofNat 8 x) =
          (match buf with
            | some b => Memory.read s.mem (b.base + (p * s.cfg.width + x))
            | none => 0x00)) ∧
      k'.mode = .horizontal ∧
      k'.colStart.toNat = 0 ∧ k'.colStop.toNat = s.cfg.width - 1 ∧
      k'.pageStart.toNat = 0 ∧ k'.pageStop.toNat = pages s.cfg - 1

/-- After a successful INIT the settings of the target are those the sequence sent, the addressing mode is Horizontal
whatever it was, and the windows, the pointer and the display RAM are not touched (42_init_sequencer.md R153; the sink is log entry
24, and that an accepted write reached it is log entry 7). -/
def Obligations.InitSettlesTarget : Prop :=
  ∀ (s t : State) (k : Sink), exec .init s = .next t → t.status = some 0 → k.pending = [] →
    ∃ bytes, t.stream = s.stream ++ bytes ∧
      Sink.run bytes k = .ok
        { k with
          displayOn := true
          oscFreq := s.params.oscDefault
          muxRatio := BitVec.ofNat 8 (s.cfg.height - 1)
          offset := 0
          startLine := 0
          chargePump := s.params.chargePumpInit
          segRemap := true
          scanBackward := true
          comPins := if s.cfg.height = 64 then s.params.comPinsAlt else s.params.comPinsSeq
          contrast := s.params.contrastDefault
          precharge := s.params.prechargeDefault
          vcomh := s.params.vcomhDefault
          wholeOn := false
          mode := .horizontal
          inverse := false }
end

