-- ==== Sys2Proof/Laws/Memory.lean ====
section
/-! SUPPORT. The laws of the caller's memory: a read after a write, and that a write keeps the canonical form. -/

namespace Sys2Proof.Machine

@[simp] theorem Memory.read_nil (x : Nat) : Memory.read [] x = Memory.unlisted := rfl

/-- An address below every listed one reads as unlisted. -/
theorem Memory.read_below (m : Memory) (x : Nat) (h : ∀ c ∈ m, x < c.1) :
    Memory.read m x = Memory.unlisted := by
  induction m with
  | nil => rfl
  | cons c rest ih =>
    have hx := h c (by simp)
    rw [Memory.read, if_neg (by omega)]
    exact ih fun d hd => h d (by simp [hd])

/-- A read after a write to the same address gives the byte written. -/
theorem Memory.read_write_same (m : Memory) (x : Nat) (v : Byte) (h : Memory.wf m) :
    Memory.read (Memory.write m x v) x = v := by
  induction m with
  | nil =>
    unfold Memory.write
    split <;> simp_all [Memory.read]
  | cons c rest ih =>
    obtain ⟨a, w⟩ := c
    have hrest : Memory.wf rest := ⟨(List.pairwise_cons.mp h.1).2, fun d hd => h.2 d (by simp [hd])⟩
    have hlow : ∀ d ∈ rest, a < d.1 := (List.pairwise_cons.mp h.1).1
    unfold Memory.write
    split
    · split
      · rename_i hxa hv
        subst hv
        refine Memory.read_below _ _ fun d hd => ?_
        rcases List.mem_cons.mp hd with rfl | hd
        · exact hxa
        · exact lt_trans hxa (hlow d hd)
      · simp [Memory.read]
    · split
      · split
        · rename_i hxa hv
          subst hv hxa
          exact Memory.read_below _ _ hlow
        · simp [Memory.read]
      · rename_i hne
        rw [Memory.read, if_neg (fun h => hne h.symm)]
        exact ih hrest

/-- A write leaves every other address alone. -/
theorem Memory.read_write_other (m : Memory) (x y : Nat) (v : Byte) (h : y ≠ x) :
    Memory.read (Memory.write m x v) y = Memory.read m y := by
  induction m with
  | nil =>
    unfold Memory.write
    split <;> simp [Memory.read, Ne.symm h]
  | cons c rest ih =>
    obtain ⟨a, w⟩ := c
    unfold Memory.write
    split
    · split
      · rfl
      · simp [Memory.read, Ne.symm h]
    · split
      · rename_i hxa
        subst hxa
        split <;> simp [Memory.read, Ne.symm h]
      · simp only [Memory.read]
        split
        · rfl
        · exact ih

/-- Every entry after a write is an old one or the written one. -/
theorem Memory.mem_write (m : Memory) (x : Nat) (v : Byte) (c : Host.Cell) (h : c ∈ Memory.write m x v) :
    c ∈ m ∨ (c = (x, v) ∧ v ≠ Memory.unlisted) := by
  induction m with
  | nil =>
    unfold Memory.write at h
    split at h
    · simp at h
    · simp_all
  | cons d rest ih =>
    obtain ⟨a, w⟩ := d
    unfold Memory.write at h
    split at h
    · split at h
      · exact .inl h
      · rcases List.mem_cons.mp h with rfl | h
        · exact .inr ⟨rfl, ‹_›⟩
        · exact .inl h
    · split at h
      · split at h
        · exact .inl (List.mem_cons_of_mem _ h)
        · rcases List.mem_cons.mp h with rfl | h
          · exact .inr ⟨rfl, ‹_›⟩
          · exact .inl (List.mem_cons_of_mem _ h)
      · rcases List.mem_cons.mp h with rfl | h
        · exact .inl (by simp)
        · rcases ih h with h | h
          · exact .inl (List.mem_cons_of_mem _ h)
          · exact .inr h

/-- A write keeps the canonical form. -/
theorem Memory.write_wf (m : Memory) (x : Nat) (v : Byte) (h : Memory.wf m) : Memory.wf (Memory.write m x v) := by
  refine ⟨?_, fun c hc => ?_⟩
  · induction m with
    | nil =>
      unfold Memory.write
      split <;> simp
    | cons d rest ih =>
      obtain ⟨a, w⟩ := d
      obtain ⟨hlow, hpw⟩ := List.pairwise_cons.mp h.1
      have hrest : Memory.wf rest := ⟨hpw, fun d hd => h.2 d (by simp [hd])⟩
      unfold Memory.write
      split
      · split
        · exact h.1
        · refine List.pairwise_cons.mpr ⟨fun d hd => ?_, h.1⟩
          rcases List.mem_cons.mp hd with rfl | hd
          · assumption
          · exact lt_trans ‹_› (hlow d hd)
      · split
        · split
          · exact hpw
          · rename_i hxa hv
            subst hxa
            exact List.pairwise_cons.mpr ⟨hlow, hpw⟩
        · refine List.pairwise_cons.mpr ⟨fun d hd => ?_, ih hrest⟩
          rcases Memory.mem_write rest x v d hd with hd | ⟨rfl, _⟩
          · exact hlow d hd
          · simp only
            omega
  · rcases Memory.mem_write m x v c hc with hc | ⟨rfl, hv⟩
    · exact h.2 c hc
    · exact hv

/-- The memory at reset is canonical. -/
theorem Memory.reset_wf : Memory.wf State.reset.mem := by decide

end Sys2Proof.Machine
end

