-- ==== Sys2Proof/Laws/State.lean ====
section
/-! SUPPORT. One lemma for each field of State after each named update: what it holds, or that it is unchanged. -/

namespace Sys2Proof.Machine

/-! `emit` -/

@[simp] theorem State.emit_cfg (s : State) (e : Event) :
    (s.emit e).cfg = s.cfg := rfl

@[simp] theorem State.emit_params (s : State) (e : Event) :
    (s.emit e).params = s.params := rfl

@[simp] theorem State.emit_req (s : State) (e : Event) :
    (s.emit e).req = s.req := rfl

@[simp] theorem State.emit_pos (s : State) (e : Event) :
    (s.emit e).pos = s.pos := rfl

@[simp] theorem State.emit_status (s : State) (e : Event) :
    (s.emit e).status = s.status := rfl

@[simp] theorem State.emit_cs (s : State) (e : Event) :
    (s.emit e).cs = s.cs := rfl

@[simp] theorem State.emit_dc (s : State) (e : Event) :
    (s.emit e).dc = s.dc := rfl

@[simp] theorem State.emit_acc (s : State) (e : Event) :
    (s.emit e).acc = s.acc := rfl

@[simp] theorem State.emit_mem (s : State) (e : Event) :
    (s.emit e).mem = s.mem := rfl

@[simp] theorem State.emit_port (s : State) (e : Event) :
    (s.emit e).port = s.port := rfl

@[simp] theorem State.emit_busIn (s : State) (e : Event) :
    (s.emit e).busIn = s.busIn := rfl

@[simp] theorem State.emit_busCount (s : State) (e : Event) :
    (s.emit e).busCount = s.busCount := rfl

@[simp] theorem State.emit_trace (s : State) (e : Event) :
    (s.emit e).trace = s.trace ++ [e] := rfl

@[simp] theorem State.emit_stream (s : State) (e : Event) :
    (s.emit e).stream = s.stream := rfl

/-! `driveDc` -/

@[simp] theorem State.driveDc_cfg (s : State) (l : Level) :
    (s.driveDc l).cfg = s.cfg := rfl

@[simp] theorem State.driveDc_params (s : State) (l : Level) :
    (s.driveDc l).params = s.params := rfl

@[simp] theorem State.driveDc_req (s : State) (l : Level) :
    (s.driveDc l).req = s.req := rfl

@[simp] theorem State.driveDc_pos (s : State) (l : Level) :
    (s.driveDc l).pos = s.pos := rfl

@[simp] theorem State.driveDc_status (s : State) (l : Level) :
    (s.driveDc l).status = s.status := rfl

@[simp] theorem State.driveDc_cs (s : State) (l : Level) :
    (s.driveDc l).cs = s.cs := rfl

@[simp] theorem State.driveDc_dc (s : State) (l : Level) :
    (s.driveDc l).dc = DataCommand.ofLevel l := rfl

@[simp] theorem State.driveDc_acc (s : State) (l : Level) :
    (s.driveDc l).acc = s.acc := rfl

@[simp] theorem State.driveDc_mem (s : State) (l : Level) :
    (s.driveDc l).mem = s.mem := rfl

@[simp] theorem State.driveDc_port (s : State) (l : Level) :
    (s.driveDc l).port = s.port := rfl

@[simp] theorem State.driveDc_busIn (s : State) (l : Level) :
    (s.driveDc l).busIn = s.busIn := rfl

@[simp] theorem State.driveDc_busCount (s : State) (l : Level) :
    (s.driveDc l).busCount = s.busCount := rfl

@[simp] theorem State.driveDc_trace (s : State) (l : Level) :
    (s.driveDc l).trace = s.trace ++ [.pin s.cfg.dcPin l] := rfl

@[simp] theorem State.driveDc_stream (s : State) (l : Level) :
    (s.driveDc l).stream = s.stream := rfl

/-! `driveCs` -/

@[simp] theorem State.driveCs_cfg (s : State) (v : ChipSelect) :
    (s.driveCs v).cfg = s.cfg := rfl

@[simp] theorem State.driveCs_params (s : State) (v : ChipSelect) :
    (s.driveCs v).params = s.params := rfl

@[simp] theorem State.driveCs_req (s : State) (v : ChipSelect) :
    (s.driveCs v).req = s.req := rfl

@[simp] theorem State.driveCs_pos (s : State) (v : ChipSelect) :
    (s.driveCs v).pos = s.pos := rfl

@[simp] theorem State.driveCs_status (s : State) (v : ChipSelect) :
    (s.driveCs v).status = s.status := rfl

@[simp] theorem State.driveCs_cs (s : State) (v : ChipSelect) :
    (s.driveCs v).cs = v := rfl

@[simp] theorem State.driveCs_dc (s : State) (v : ChipSelect) :
    (s.driveCs v).dc = s.dc := rfl

@[simp] theorem State.driveCs_acc (s : State) (v : ChipSelect) :
    (s.driveCs v).acc = s.acc := rfl

@[simp] theorem State.driveCs_mem (s : State) (v : ChipSelect) :
    (s.driveCs v).mem = s.mem := rfl

@[simp] theorem State.driveCs_port (s : State) (v : ChipSelect) :
    (s.driveCs v).port = s.port := rfl

@[simp] theorem State.driveCs_busIn (s : State) (v : ChipSelect) :
    (s.driveCs v).busIn = s.busIn := rfl

@[simp] theorem State.driveCs_busCount (s : State) (v : ChipSelect) :
    (s.driveCs v).busCount = s.busCount := rfl

@[simp] theorem State.driveCs_trace (s : State) (v : ChipSelect) :
    (s.driveCs v).trace = s.trace ++ [.pin s.cfg.csPin (chipSelectLevel s.params v)] := rfl

@[simp] theorem State.driveCs_stream (s : State) (v : ChipSelect) :
    (s.driveCs v).stream = s.stream := rfl

/-! `memWrite` -/

@[simp] theorem State.memWrite_cfg (s : State) (buf : BufRef) (o : Nat) (v : Byte) :
    (s.memWrite buf o v).cfg = s.cfg := rfl

@[simp] theorem State.memWrite_params (s : State) (buf : BufRef) (o : Nat) (v : Byte) :
    (s.memWrite buf o v).params = s.params := rfl

@[simp] theorem State.memWrite_req (s : State) (buf : BufRef) (o : Nat) (v : Byte) :
    (s.memWrite buf o v).req = s.req := rfl

@[simp] theorem State.memWrite_pos (s : State) (buf : BufRef) (o : Nat) (v : Byte) :
    (s.memWrite buf o v).pos = s.pos := rfl

@[simp] theorem State.memWrite_status (s : State) (buf : BufRef) (o : Nat) (v : Byte) :
    (s.memWrite buf o v).status = s.status := rfl

@[simp] theorem State.memWrite_cs (s : State) (buf : BufRef) (o : Nat) (v : Byte) :
    (s.memWrite buf o v).cs = s.cs := rfl

@[simp] theorem State.memWrite_dc (s : State) (buf : BufRef) (o : Nat) (v : Byte) :
    (s.memWrite buf o v).dc = s.dc := rfl

@[simp] theorem State.memWrite_acc (s : State) (buf : BufRef) (o : Nat) (v : Byte) :
    (s.memWrite buf o v).acc = s.acc := rfl

@[simp] theorem State.memWrite_mem (s : State) (buf : BufRef) (o : Nat) (v : Byte) :
    (s.memWrite buf o v).mem = Memory.write s.mem (buf.base + o) v := rfl

@[simp] theorem State.memWrite_port (s : State) (buf : BufRef) (o : Nat) (v : Byte) :
    (s.memWrite buf o v).port = s.port := rfl

@[simp] theorem State.memWrite_busIn (s : State) (buf : BufRef) (o : Nat) (v : Byte) :
    (s.memWrite buf o v).busIn = s.busIn := rfl

@[simp] theorem State.memWrite_busCount (s : State) (buf : BufRef) (o : Nat) (v : Byte) :
    (s.memWrite buf o v).busCount = s.busCount := rfl

@[simp] theorem State.memWrite_trace (s : State) (buf : BufRef) (o : Nat) (v : Byte) :
    (s.memWrite buf o v).trace = s.trace := rfl

@[simp] theorem State.memWrite_stream (s : State) (buf : BufRef) (o : Nat) (v : Byte) :
    (s.memWrite buf o v).stream = s.stream := rfl

/-! `abort` -/

@[simp] theorem State.abort_cfg (s : State) (st : Status) :
    (s.abort st).cfg = s.cfg := rfl

@[simp] theorem State.abort_params (s : State) (st : Status) :
    (s.abort st).params = s.params := rfl

@[simp] theorem State.abort_req (s : State) (st : Status) :
    (s.abort st).req = s.req := rfl

@[simp] theorem State.abort_pos (s : State) (st : Status) :
    (s.abort st).pos = .idle := rfl

@[simp] theorem State.abort_status (s : State) (st : Status) :
    (s.abort st).status = some st := rfl

@[simp] theorem State.abort_cs (s : State) (st : Status) :
    (s.abort st).cs = s.cs := rfl

@[simp] theorem State.abort_dc (s : State) (st : Status) :
    (s.abort st).dc = s.dc := rfl

@[simp] theorem State.abort_acc (s : State) (st : Status) :
    (s.abort st).acc = s.acc := rfl

@[simp] theorem State.abort_mem (s : State) (st : Status) :
    (s.abort st).mem = s.mem := rfl

@[simp] theorem State.abort_port (s : State) (st : Status) :
    (s.abort st).port = s.port := rfl

@[simp] theorem State.abort_busIn (s : State) (st : Status) :
    (s.abort st).busIn = s.busIn := rfl

@[simp] theorem State.abort_busCount (s : State) (st : Status) :
    (s.abort st).busCount = s.busCount := rfl

@[simp] theorem State.abort_trace (s : State) (st : Status) :
    (s.abort st).trace = s.trace := rfl

@[simp] theorem State.abort_stream (s : State) (st : Status) :
    (s.abort st).stream = s.stream := rfl

/-! `succeed` -/

@[simp] theorem State.succeed_cfg (s : State) :
    (s.succeed).cfg = s.cfg := rfl

@[simp] theorem State.succeed_params (s : State) :
    (s.succeed).params = s.params := rfl

@[simp] theorem State.succeed_req (s : State) :
    (s.succeed).req = s.req := rfl

@[simp] theorem State.succeed_pos (s : State) :
    (s.succeed).pos = .idle := rfl

@[simp] theorem State.succeed_status (s : State) :
    (s.succeed).status = some 0 := rfl

@[simp] theorem State.succeed_cs (s : State) :
    (s.succeed).cs = s.cs := rfl

@[simp] theorem State.succeed_dc (s : State) :
    (s.succeed).dc = s.dc := rfl

@[simp] theorem State.succeed_acc (s : State) :
    (s.succeed).acc = s.acc := rfl

@[simp] theorem State.succeed_mem (s : State) :
    (s.succeed).mem = s.mem := rfl

@[simp] theorem State.succeed_port (s : State) :
    (s.succeed).port = s.port := rfl

@[simp] theorem State.succeed_busIn (s : State) :
    (s.succeed).busIn = s.busIn := rfl

@[simp] theorem State.succeed_busCount (s : State) :
    (s.succeed).busCount = s.busCount := rfl

@[simp] theorem State.succeed_trace (s : State) :
    (s.succeed).trace = s.trace := rfl

@[simp] theorem State.succeed_stream (s : State) :
    (s.succeed).stream = s.stream := rfl

/-! `resetEvent` -/

@[simp] theorem State.resetEvent_cfg (s : State) :
    (s.resetEvent).cfg = s.cfg := rfl

@[simp] theorem State.resetEvent_params (s : State) :
    (s.resetEvent).params = s.params := rfl

@[simp] theorem State.resetEvent_req (s : State) :
    (s.resetEvent).req = s.req := rfl

@[simp] theorem State.resetEvent_pos (s : State) :
    (s.resetEvent).pos = .idle := rfl

@[simp] theorem State.resetEvent_status (s : State) :
    (s.resetEvent).status = none := rfl

@[simp] theorem State.resetEvent_cs (s : State) :
    (s.resetEvent).cs = .deasserted := rfl

@[simp] theorem State.resetEvent_dc (s : State) :
    (s.resetEvent).dc = .unknown := rfl

@[simp] theorem State.resetEvent_acc (s : State) :
    (s.resetEvent).acc = s.acc := rfl

@[simp] theorem State.resetEvent_mem (s : State) :
    (s.resetEvent).mem = s.mem := rfl

@[simp] theorem State.resetEvent_port (s : State) :
    (s.resetEvent).port = s.port := rfl

@[simp] theorem State.resetEvent_busIn (s : State) :
    (s.resetEvent).busIn = s.busIn := rfl

@[simp] theorem State.resetEvent_busCount (s : State) :
    (s.resetEvent).busCount = s.busCount := rfl

@[simp] theorem State.resetEvent_trace (s : State) :
    (s.resetEvent).trace = s.trace := rfl

@[simp] theorem State.resetEvent_stream (s : State) :
    (s.resetEvent).stream = s.stream := rfl

/-! `present` -/

@[simp] theorem State.present_cfg (s : State) (r : Request) :
    (s.present r).cfg = s.cfg := rfl

@[simp] theorem State.present_params (s : State) (r : Request) :
    (s.present r).params = s.params := rfl

@[simp] theorem State.present_req (s : State) (r : Request) :
    (s.present r).req = s.req := rfl

@[simp] theorem State.present_pos (s : State) (r : Request) :
    (s.present r).pos = .idle := rfl

@[simp] theorem State.present_status (s : State) (r : Request) :
    (s.present r).status = s.status := rfl

@[simp] theorem State.present_cs (s : State) (r : Request) :
    (s.present r).cs = s.cs := rfl

@[simp] theorem State.present_dc (s : State) (r : Request) :
    (s.present r).dc = s.dc := rfl

@[simp] theorem State.present_acc (s : State) (r : Request) :
    (s.present r).acc = s.acc := rfl

@[simp] theorem State.present_mem (s : State) (r : Request) :
    (s.present r).mem = s.mem := rfl

@[simp] theorem State.present_port (s : State) (r : Request) :
    (s.present r).port = .request r :: s.port := rfl

@[simp] theorem State.present_busIn (s : State) (r : Request) :
    (s.present r).busIn = s.busIn := rfl

@[simp] theorem State.present_busCount (s : State) (r : Request) :
    (s.present r).busCount = s.busCount := rfl

@[simp] theorem State.present_trace (s : State) (r : Request) :
    (s.present r).trace = s.trace := rfl

@[simp] theorem State.present_stream (s : State) (r : Request) :
    (s.present r).stream = s.stream := rfl

/-! `beginOperation` -/

@[simp] theorem beginOperation_cfg (i : Instr) (s : State) :
    (beginOperation i s).cfg = s.cfg := rfl

@[simp] theorem beginOperation_params (i : Instr) (s : State) :
    (beginOperation i s).params = s.params := rfl

@[simp] theorem beginOperation_req (i : Instr) (s : State) :
    (beginOperation i s).req = s.req := rfl

@[simp] theorem beginOperation_pos (i : Instr) (s : State) :
    (beginOperation i s).pos = startPos i s := rfl

@[simp] theorem beginOperation_status (i : Instr) (s : State) :
    (beginOperation i s).status = s.status := rfl

@[simp] theorem beginOperation_cs (i : Instr) (s : State) :
    (beginOperation i s).cs = s.cs := rfl

@[simp] theorem beginOperation_dc (i : Instr) (s : State) :
    (beginOperation i s).dc = s.dc := rfl

@[simp] theorem beginOperation_acc (i : Instr) (s : State) :
    (beginOperation i s).acc = s.acc := rfl

@[simp] theorem beginOperation_mem (i : Instr) (s : State) :
    (beginOperation i s).mem = s.mem := rfl

@[simp] theorem beginOperation_port (i : Instr) (s : State) :
    (beginOperation i s).port = s.port := rfl

@[simp] theorem beginOperation_busIn (i : Instr) (s : State) :
    (beginOperation i s).busIn = s.busIn := rfl

@[simp] theorem beginOperation_busCount (i : Instr) (s : State) :
    (beginOperation i s).busCount = s.busCount := rfl

@[simp] theorem beginOperation_trace (i : Instr) (s : State) :
    (beginOperation i s).trace = s.trace := rfl

@[simp] theorem beginOperation_stream (i : Instr) (s : State) :
    (beginOperation i s).stream = s.stream := rfl

/-! `busWrite` -/

@[simp] theorem State.busWrite_cfg (s : State) (ev : Status → Event) (tag : Tag) (bytes : List Byte) :
    (s.busWrite ev tag bytes).2.cfg = s.cfg := rfl

@[simp] theorem State.busWrite_params (s : State) (ev : Status → Event) (tag : Tag) (bytes : List Byte) :
    (s.busWrite ev tag bytes).2.params = s.params := rfl

@[simp] theorem State.busWrite_req (s : State) (ev : Status → Event) (tag : Tag) (bytes : List Byte) :
    (s.busWrite ev tag bytes).2.req = s.req := rfl

@[simp] theorem State.busWrite_pos (s : State) (ev : Status → Event) (tag : Tag) (bytes : List Byte) :
    (s.busWrite ev tag bytes).2.pos = s.pos := rfl

@[simp] theorem State.busWrite_status (s : State) (ev : Status → Event) (tag : Tag) (bytes : List Byte) :
    (s.busWrite ev tag bytes).2.status = s.status := rfl

@[simp] theorem State.busWrite_cs (s : State) (ev : Status → Event) (tag : Tag) (bytes : List Byte) :
    (s.busWrite ev tag bytes).2.cs = s.cs := rfl

@[simp] theorem State.busWrite_dc (s : State) (ev : Status → Event) (tag : Tag) (bytes : List Byte) :
    (s.busWrite ev tag bytes).2.dc = s.dc := rfl

@[simp] theorem State.busWrite_acc (s : State) (ev : Status → Event) (tag : Tag) (bytes : List Byte) :
    (s.busWrite ev tag bytes).2.acc = s.acc := rfl

@[simp] theorem State.busWrite_mem (s : State) (ev : Status → Event) (tag : Tag) (bytes : List Byte) :
    (s.busWrite ev tag bytes).2.mem = s.mem := rfl

@[simp] theorem State.busWrite_port (s : State) (ev : Status → Event) (tag : Tag) (bytes : List Byte) :
    (s.busWrite ev tag bytes).2.port = s.port := rfl

@[simp] theorem State.busWrite_busIn (s : State) (ev : Status → Event) (tag : Tag) (bytes : List Byte) :
    (s.busWrite ev tag bytes).2.busIn = s.busIn.tail := rfl

@[simp] theorem State.busWrite_busCount (s : State) (ev : Status → Event) (tag : Tag) (bytes : List Byte) :
    (s.busWrite ev tag bytes).2.busCount = s.busCount + 1 := rfl

@[simp] theorem State.busWrite_trace (s : State) (ev : Status → Event) (tag : Tag) (bytes : List Byte) :
    (s.busWrite ev tag bytes).2.trace = s.trace ++ [ev (s.answerAt 0).status] := rfl

@[simp] theorem State.busWrite_stream (s : State) (ev : Status → Event) (tag : Tag) (bytes : List Byte) :
    (s.busWrite ev tag bytes).2.stream = s.stream ++ reachedTarget (s.answerAt 0) tag bytes := rfl

@[simp] theorem State.busWrite_answer (s : State) (ev : Status → Event) (tag : Tag) (bytes : List Byte) :
    (s.busWrite ev tag bytes).1 = (s.answerAt 0).status := rfl

end Sys2Proof.Machine
end

