-- ==== Sys2Proof/Laws/Ops.lean ====
section
/-! SUPPORT. For each shared operation the lemma that says once what it can do: TxSend under each transport, the
launch, the run of a list of transfers in closed form, and the whole of one command. -/

namespace Sys2Proof.Machine

/-! ## The bus driver's answers -/

/-- After one bus write the answers move up by one. -/
theorem State.answerAt_succ {s t : State} (hin : t.busIn = s.busIn.tail) (hcount : t.busCount = s.busCount + 1)
    (k : Nat) : t.answerAt k = s.answerAt (k + 1) := by
  unfold State.answerAt
  rw [hin, hcount, List.getElem?_tail]
  cases s.busIn[k + 1]? <;> simp [Nat.add_comm, Nat.add_left_comm]

theorem State.acceptedOf_zero (s : State) : s.acceptedOf 0 = 0 := rfl

/-- The count of accepted writes, one write at a time. -/
theorem State.acceptedOf_succ {s t : State} (hin : t.busIn = s.busIn.tail) (hcount : t.busCount = s.busCount + 1)
    (n : Nat) :
    s.acceptedOf (n + 1) = if (s.answerAt 0).status = 0 then t.acceptedOf n + 1 else 0 := by
  unfold State.acceptedOf
  rw [List.range_succ_eq_map, List.takeWhile_cons]
  by_cases h : (s.answerAt 0).status = 0
  · simp [h, List.takeWhile_map, Function.comp_def, State.answerAt_succ hin hcount]
  · simp [h]

theorem State.acceptedOf_le (s : State) (n : Nat) : s.acceptedOf n ≤ n := by
  unfold State.acceptedOf
  calc _ ≤ (List.range n).length := (List.takeWhile_sublist _).length_le
    _ = n := List.length_range

/-! ## TxSend -/

/-- TxSend under I2C or 4-wire SPI: the bus write's answer decides the status, the events are the frame of the
transport, and only the pins, the bus and the two outputs change. -/
theorem txSend_supported (tag : Tag) (bytes : List Byte) (s : State) (h : s.cfg.transport ≠ .spi3) :
    txSend tag bytes s =
      ((s.answerAt 0).status,
       { s with
          busIn := s.busIn.tail
          busCount := s.busCount + 1
          trace := s.trace ++ frameEvents s.params s.cfg (tag, bytes) (s.answerAt 0).status
          stream := s.stream ++ taggedUnder (tag, bytes) (s.answerAt 0)
          cs := if s.cfg.transport = .spi4 then .deasserted else s.cs
          dc := if s.cfg.transport = .spi4 then (match tag with | .cmd => .low | .data => .high) else s.dc }) := by
  have hreach : reachedTarget (s.answerAt 0) tag bytes = taggedUnder (tag, bytes) (s.answerAt 0) := by
    simp only [reachedTarget, taggedUnder, tagged, succeeded, beq_iff_eq]
    split <;> rfl
  unfold txSend
  cases ht : s.cfg.transport with
  | i2c => cases tag <;> simp [txI2c, State.busWrite, frameEvents, ht, controlByte, hreach]
  | spi4 =>
    have ha : ((s.driveDc (tagLevel tag)).driveCs .asserted).answerAt 0 = s.answerAt 0 := rfl
    simp only [txSpi4, State.busWrite, ha, hreach]
    cases tag <;> cases hl : s.params.csActiveLevel <;>
      simp [State.driveDc, State.driveCs, State.emit, frameEvents, ht, tagLevel, DataCommand.ofLevel,
        chipSelectLevel, otherLevel, hl]
  | spi3 => exact absurd ht h

/-- TxSend under 3-wire SPI: the fixed status, and nothing else. -/
theorem txSend_unsupported (tag : Tag) (bytes : List Byte) (s : State) (h : s.cfg.transport = .spi3) :
    txSend tag bytes s = (s.params.errUnsupported, s) := by
  simp [txSend, h, txSpi3]

/-! ## The launch -/

/-- An idle block with a legal instance launches an operation whose own check finds nothing. -/
theorem launch_ready {s : State} (h : s.Ready) {check : Option Refusal} (hc : check = none)
    (operation : State → State) : launch check operation s = .next (operation s) := by
  obtain ⟨hp, hl, hg⟩ := h
  simp [launch, instanceCheck, hp, hl, hg, hc]

/-- When a launch answers a next state, the block was idle, nothing refused the operation, and the state is the
operation's. -/
theorem launch_next {s t : State} {check : Option Refusal} {operation : State → State}
    (h : launch check operation s = .next t) : s.Ready ∧ check = none ∧ t = operation s := by
  unfold launch instanceCheck at h
  split at h
  · cases h
  · rename_i hp
    by_cases hl : legalParams s.params = true
    · by_cases hg : legalGeometry s.cfg = true
      · cases check with
        | none =>
          simp [hl, hg] at h
          exact ⟨⟨not_not.mp hp, hl, hg⟩, rfl, h.symm⟩
        | some r => simp [hl, hg] at h
      · simp [hl, hg] at h
    · simp [hl] at h

/-- A launch never ends in a fault. -/
theorem launch_no_fault {s : State} {check : Option Refusal} {operation : State → State} (r : Fault) :
    launch check operation s ≠ .fault r := by
  unfold launch
  split
  · nofun
  · split <;> nofun

/-! ## The run of a list of transfers -/

/-- The bus writes of a list of transfers. -/
def unitsOf (ts : List Transfer) : List (Tag × List Byte) := ts.map fun t => (t.tag, t.bytes)

/-- A run under 3-wire SPI that sends anything ends at its first transfer. -/
theorem runTransfers_unsupported (t : Transfer) (ts : List Transfer) (s : State) (h : s.cfg.transport = .spi3)
    (he : s.params.errUnsupported ≠ 0) :
    runTransfers (t :: ts) s = { s with pos := .idle, status := some s.params.errUnsupported } := by
  simp [runTransfers, txSend_unsupported _ _ _ (show ({ s with pos := t.pos } : State).cfg.transport = .spi3 from h),
    succeeded, he, State.abort]

theorem afterSending_nil (s : State) (h : s.cfg.transport ≠ .spi3) (hc : s.cs = .deasserted) :
    s.afterSending [] = s.succeed := by
  unfold State.afterSending
  cases ht : s.cfg.transport <;> simp_all [State.succeed, State.acceptedOf_zero, List.mapIdx_nil]

/-- The state after one supported call of TxSend. -/
def afterOne (u : Tag × List Byte) (s : State) : State :=
  { s with
      busIn := s.busIn.tail
      busCount := s.busCount + 1
      trace := s.trace ++ frameEvents s.params s.cfg u (s.answerAt 0).status
      stream := s.stream ++ taggedUnder u (s.answerAt 0)
      cs := if s.cfg.transport = .spi4 then .deasserted else s.cs
      dc := if s.cfg.transport = .spi4 then (match u.1 with | .cmd => .low | .data => .high) else s.dc }

/-- The closed form where the first write is accepted and others follow. -/
theorem afterSending_accepted (u v : Tag × List Byte) (us : List (Tag × List Byte)) (s : State)
    (h : s.cfg.transport ≠ .spi3) (ha : (s.answerAt 0).status = 0) :
    s.afterSending (u :: v :: us) = (afterOne u s).afterSending (v :: us) := by
  have hk := State.acceptedOf_succ (s := s) (t := afterOne u s) rfl rfl (v :: us).length
  have hans : ∀ k, (afterOne u s).answerAt k = s.answerAt (k + 1) := State.answerAt_succ rfl rfl
  rw [if_pos ha] at hk
  have hlen : (u :: v :: us).length = (v :: us).length + 1 := rfl
  unfold State.afterSending
  simp only [hlen, hk, hans, List.take_succ_cons (a := u), List.mapIdx_cons, List.flatten_cons, List.length_cons (a := u),
    Nat.add_right_cancel_iff, show (afterOne u s).cfg = s.cfg from rfl, show (afterOne u s).params = s.params from rfl]
  cases ht : s.cfg.transport with
  | spi3 => exact absurd ht h
  | i2c => simp [afterOne, ht, Nat.add_assoc, Nat.add_comm]
  | spi4 =>
    simp only [List.take_succ_cons, List.getLast?_cons_cons]
    generalize hx : (v :: List.take ((afterOne u s).acceptedOf us.length.succ) us).getLast? = x
    cases x with
    | none => simp at hx
    | some w => obtain ⟨_ | _, _⟩ := w <;> simp [afterOne, ht, Nat.add_assoc, Nat.add_comm]

/-- The closed form of a single accepted write. -/
theorem afterSending_last (u : Tag × List Byte) (s : State) (h : s.cfg.transport ≠ .spi3)
    (ha : (s.answerAt 0).status = 0) : s.afterSending [u] = (afterOne u s).succeed := by
  have hk := State.acceptedOf_succ (s := s) (t := afterOne u s) rfl rfl 0
  rw [if_pos ha, State.acceptedOf_zero] at hk
  unfold State.afterSending
  cases ht : s.cfg.transport with
  | spi3 => exact absurd ht h
  | i2c => simp [afterOne, State.succeed, ht, hk]
  | spi4 => obtain ⟨_ | _, bytes⟩ := u <;> simp [afterOne, State.succeed, ht, hk]

/-- The closed form where the first write fails. -/
theorem afterSending_failed (u : Tag × List Byte) (us : List (Tag × List Byte)) (s : State)
    (h : s.cfg.transport ≠ .spi3) (ha : (s.answerAt 0).status ≠ 0) :
    s.afterSending (u :: us) = (afterOne u s).abort (s.answerAt 0).status := by
  have hk := State.acceptedOf_succ (s := s) (t := afterOne u s) rfl rfl us.length
  rw [if_neg ha] at hk
  unfold State.afterSending
  cases ht : s.cfg.transport with
  | spi3 => exact absurd ht h
  | i2c => simp [afterOne, State.abort, ht, hk]
  | spi4 => obtain ⟨_ | _, bytes⟩ := u <;> simp [afterOne, State.abort, ht, hk]

/-- TxSend under a supported transport, by the name of the state it leaves. -/
theorem txSend_afterOne (tag : Tag) (bytes : List Byte) (s : State) (h : s.cfg.transport ≠ .spi3) :
    txSend tag bytes s = ((s.answerAt 0).status, afterOne (tag, bytes) s) := txSend_supported tag bytes s h

/-- The closed form does not look at the sequencer position. -/
theorem afterSending_pos (us : List (Tag × List Byte)) (s : State) (p : Pos) :
    ({ s with pos := p } : State).afterSending us = s.afterSending us := by
  unfold State.afterSending
  cases h : s.cfg.transport <;> rfl

/-- One transfer of a run under a supported transport. -/
theorem runTransfers_cons (t : Transfer) (ts : List Transfer) (s : State) (h : s.cfg.transport ≠ .spi3) :
    runTransfers (t :: ts) s =
      if (s.answerAt 0).status = 0 then runTransfers ts { afterOne (t.tag, t.bytes) s with pos := t.pos }
      else (afterOne (t.tag, t.bytes) s).abort (s.answerAt 0).status := by
  rw [runTransfers, txSend_afterOne t.tag t.bytes { s with pos := t.pos } h]
  simp only [succeeded, beq_iff_eq]
  rfl

/-- The run of a list of transfers, which is not empty, is its closed form: what every operation leaves behind. -/
theorem runTransfers_eq (t : Transfer) (ts : List Transfer) (s : State) (he : s.params.errUnsupported ≠ 0) :
    runTransfers (t :: ts) s = s.afterSending (unitsOf (t :: ts)) := by
  by_cases h : s.cfg.transport = .spi3
  · rw [runTransfers_unsupported t ts s h he, State.afterSending, h]
  · induction ts generalizing t s with
    | nil =>
      rw [runTransfers_cons t [] s h, show unitsOf [t] = [(t.tag, t.bytes)] from rfl]
      split
      · rw [afterSending_last _ s h ‹_›]
        rfl
      · rw [afterSending_failed _ _ s h ‹_›]
    | cons u us ih =>
      rw [runTransfers_cons t (u :: us) s h,
        show unitsOf (t :: u :: us) = (t.tag, t.bytes) :: (u.tag, u.bytes) :: unitsOf us from rfl]
      split
      · rw [afterSending_accepted _ _ _ s h ‹_›, ih u { afterOne (t.tag, t.bytes) s with pos := t.pos } he h]
        exact afterSending_pos _ _ _
      · rw [afterSending_failed _ _ s h ‹_›]

/-! ## One command -/

/-- The bus writes of CmdSeq are those of its command units. -/
theorem unitsOf_cmdSeq (g : CmdGrouping) (place : Nat → Pos) (bytes : List Byte) :
    unitsOf (cmdSeq g place bytes) = commandUnits g bytes := by
  cases g with
  | perCommand => rfl
  | perByte =>
    simp only [unitsOf, cmdSeq, commandUnits]
    induction bytes generalizing place with
    | nil => rfl
    | cons v vs ih =>
      rw [List.mapIdx_cons, List.map_cons, List.map_cons]
      exact congrArg _ (ih fun k => place (k + 1))

theorem unitsOf_append (ts us : List Transfer) : unitsOf (ts ++ us) = unitsOf ts ++ unitsOf us := by
  simp [unitsOf]

/-- A ready block runs a command to the closed form of its bus writes. -/
theorem sendCommand_ready {s : State} (h : s.Ready) (v : Byte) (vs : List Byte) :
    sendCommand (v :: vs) s = .next (s.afterSending (commandUnits s.params.cmdGrouping (v :: vs))) := by
  have he : s.params.errUnsupported ≠ 0 := by
    have := h.2.1
    simp only [legalParams, Bool.and_eq_true, bne_iff_ne] at this
    exact this.2
  rw [sendCommand, launch_ready h rfl, ← unitsOf_cmdSeq s.params.cmdGrouping Pos.cmd (v :: vs)]
  cases hg : s.params.cmdGrouping
  · simp only [cmdSeq, List.mapIdx_cons]
    rw [runTransfers_eq _ _ _ he]
  · simp only [cmdSeq]
    rw [runTransfers_eq _ _ _ he]

end Sys2Proof.Machine
end

