-- ==== Sys2Proof/Laws/Operations.lean ====
section
/-! SUPPORT. The bus writes of INIT and of LOAD_FB, and the geometry facts they use. -/

namespace Sys2Proof.Machine

/-! ## The geometry and the parameters of a ready block -/

/-- ERR_UNSUPPORTED is not 0 where the parameters are legal. -/
theorem State.Ready.err_ne_zero {s : State} (h : s.Ready) : s.params.errUnsupported ≠ 0 := by
  have := h.2.1
  simp only [legalParams, Bool.and_eq_true, bne_iff_ne] at this
  exact this.2

/-- MAX_CHUNK is at least 1 where the parameters are legal. -/
theorem State.Ready.maxChunk_pos {s : State} (h : s.Ready) (t : Transport) : 1 ≤ maxChunk s.params t := by
  have := h.2.1
  simp only [legalParams, Bool.and_eq_true, decide_eq_true_eq] at this
  cases t <;> simp [maxChunk] <;> omega

/-- The legal widths and heights (00_scope.md R7). -/
theorem legalGeometry_cases {d : Descriptor} (h : legalGeometry d = true) :
    (d.width = 96 ∨ d.width = 128) ∧ (d.height = 16 ∨ d.height = 32 ∨ d.height = 64) := by
  simpa [legalGeometry, or_assoc] using h

/-- FB_SIZE is the product of the width and the pages (00_scope.md R8). -/
theorem fbSize_eq {d : Descriptor} (h : legalGeometry d = true) : fbSize d = pages d * d.width := by
  obtain ⟨hw | hw, hh | hh | hh⟩ := legalGeometry_cases h <;> simp [fbSize, pages, hw, hh]

/-- No row of a legal source bitmap has padding bits (00_scope.md R8). -/
theorem xbmStride_eq {d : Descriptor} (h : legalGeometry d = true) : xbmStride d * 8 = d.width := by
  obtain ⟨hw | hw, _⟩ := legalGeometry_cases h <;> simp [xbmStride, hw]

/-- The height is a whole number of pages (00_scope.md R8). -/
theorem pages_mul {d : Descriptor} (h : legalGeometry d = true) : pages d * 8 = d.height := by
  obtain ⟨_, hh | hh | hh⟩ := legalGeometry_cases h <;> simp [pages, hh]

/-! ## The data phase -/

/-- The transfers of the data phase carry the pieces of the data, in order. -/
theorem unitsOf_streamFrom (k : Nat) (fuel i : Nat) (bytes : List Byte) :
    unitsOf (streamFrom k fuel i bytes) = (pieces k fuel bytes).map fun c => (.data, c) := by
  induction fuel generalizing i bytes with
  | zero => cases bytes <;> rfl
  | succ fuel ih =>
    cases bytes with
    | nil => rfl
    | cons v vs =>
      rw [streamFrom, pieces, if_neg (by simp)]
      exact congrArg _ (ih (i + k) _)

theorem unitsOf_streamTransfers (k : Nat) (bytes : List Byte) :
    unitsOf (streamTransfers k bytes) = dataUnits k bytes := unitsOf_streamFrom k bytes.length 0 bytes

/-- The pieces of a list are the list. -/
theorem pieces_flatten (k : Nat) (hk : 1 ≤ k) (fuel : Nat) (l : List Byte) (hl : l.length ≤ fuel) :
    (pieces k fuel l).flatten = l := by
  induction fuel generalizing l with
  | zero => simp_all [pieces]
  | succ fuel ih =>
    unfold pieces
    split
    · simp_all
    · rename_i hne
      have : 0 < l.length := List.length_pos_of_ne_nil hne
      rw [List.flatten_cons, ih _ (by rw [List.length_drop]; omega), List.take_append_drop]

/-! ## LOAD_FB -/

/-- The data of a transfer: the buffer's bytes, or zeros (43_frame_buffer_transfer.md R163). -/
theorem dataBytes_some (buf : BufRef) (s : State) :
    dataBytes (some buf) s = s.bufferBytes buf (fbSize s.cfg) := rfl

theorem dataBytes_none (s : State) : dataBytes none s = List.replicate (fbSize s.cfg) 0x00 := by
  simp [dataBytes, show dataByte s none = fun _ => 0x00 from rfl]

/-- The bus writes of the three command sequences of LOAD_FB. -/
theorem unitsOf_windowTransfers (s : State) : unitsOf (windowTransfers s) = windowUnits s.params s.cfg := by
  simp [windowTransfers, windowUnits, unitsOf_append, unitsOf_cmdSeq, colWindowBytes, pageWindowBytes,
    addrModeBytes, mask2, pages]

/-- The bus writes of LOAD_FB. -/
theorem unitsOf_loadFbTransfers (buf : Option BufRef) (s : State) :
    unitsOf (loadFbTransfers buf s) = loadUnits s.params s.cfg (dataBytes buf s) := by
  rw [loadFbTransfers, unitsOf_append, unitsOf_windowTransfers, unitsOf_streamTransfers, loadUnits]
  cases h : s.cfg.transport <;> rfl

theorem loadFbTransfers_ne_nil (buf : Option BufRef) (s : State) : loadFbTransfers buf s ≠ [] := by
  unfold loadFbTransfers windowTransfers
  cases s.params.cmdGrouping <;> simp [cmdSeq, colWindowBytes]

/-- The Transfer Engine leaves the closed form of its bus writes. -/
theorem loadFb_eq (buf : Option BufRef) (s : State) (he : s.params.errUnsupported ≠ 0) :
    loadFb buf s = s.afterSending (loadUnits s.params s.cfg (dataBytes buf s)) := by
  obtain ⟨t, ts, h⟩ := List.exists_cons_of_ne_nil (loadFbTransfers_ne_nil buf s)
  rw [loadFb, ← unitsOf_loadFbTransfers, h, runTransfers_eq _ _ _ he]

/-! ## INIT -/

/-- The bus writes of INIT at a legal height. -/
theorem unitsOf_initTransfers (s : State) (h : legalGeometry s.cfg = true) :
    unitsOf (initTransfers s) = initUnits s.params s.cfg.height := by
  have hcom : comPinsFor s.params s.cfg.height =
      if s.cfg.height = 64 then s.params.comPinsAlt else s.params.comPinsSeq := by
    obtain ⟨_, hh | hh | hh⟩ := legalGeometry_cases h <;>
      simp [hh, comPinsFor, comPinsTable, List.lookup]
  have hpump : chargePumpBytes (if s.params.chargePumpInit then 1 else 0) =
      [0x8D, if s.params.chargePumpInit then 0x14 else 0x10] := by
    cases s.params.chargePumpInit <;> rfl
  simp only [initTransfers, initRows, initUnits, List.flatMap_cons, List.flatMap_nil, unitsOf_append, unitsOf_cmdSeq,
    hcom, hpump]
  rfl

end Sys2Proof.Machine
end

