-- ==== Sys2Proof/Laws/Converter.lean ====
section
/-! SUPPORT. What the conversion does: the byte it gathers, the addresses it writes, and everything it leaves
alone. -/

namespace Sys2Proof.Machine

/-- Two states agree on everything but the position, the accumulator and the caller's memory. -/
structure SameButMem (s t : State) : Prop where
  cfg : t.cfg = s.cfg
  params : t.params = s.params
  req : t.req = s.req
  status : t.status = s.status
  cs : t.cs = s.cs
  dc : t.dc = s.dc
  port : t.port = s.port
  busIn : t.busIn = s.busIn
  busCount : t.busCount = s.busCount
  trace : t.trace = s.trace
  stream : t.stream = s.stream

theorem SameButMem.refl (s : State) : SameButMem s s := ⟨rfl, rfl, rfl, rfl, rfl, rfl, rfl, rfl, rfl, rfl, rfl⟩

theorem SameButMem.trans {s t u : State} (h : SameButMem s t) (k : SameButMem t u) : SameButMem s u :=
  ⟨k.cfg.trans h.cfg, k.params.trans h.params, k.req.trans h.req, k.status.trans h.status, k.cs.trans h.cs,
    k.dc.trans h.dc, k.port.trans h.port, k.busIn.trans h.busIn, k.busCount.trans h.busCount,
    k.trace.trans h.trace, k.stream.trans h.stream⟩

/-- A fold of moves that each keep everything but memory keeps it. -/
theorem SameButMem.foldl {α : Type} (f : State → α → State) (h : ∀ s a, SameButMem s (f s a)) (l : List α) (s : State) :
    SameButMem s (l.foldl f s) := by
  induction l generalizing s with
  | nil => exact .refl s
  | cons a l ih => exact (h s a).trans (ih (f s a))

theorem gatherBit_same (xbm : BufRef) (p x b : Nat) (s : State) : SameButMem s (gatherBit xbm p x b s) :=
  ⟨rfl, rfl, rfl, rfl, rfl, rfl, rfl, rfl, rfl, rfl, rfl⟩

theorem storeColumn_same (fb : BufRef) (p x : Nat) (s : State) : SameButMem s (storeColumn fb p x s) :=
  ⟨rfl, rfl, rfl, rfl, rfl, rfl, rfl, rfl, rfl, rfl, rfl⟩

theorem convertColumn_same (xbm fb : BufRef) (p x : Nat) (s : State) : SameButMem s (convertColumn xbm fb p x s) :=
  (SameButMem.foldl _ (fun s b => gatherBit_same xbm p x b s) _ s).trans (storeColumn_same fb p x _)

theorem convertPage_same (xbm fb : BufRef) (p : Nat) (s : State) : SameButMem s (convertPage xbm fb p s) :=
  SameButMem.foldl _ (fun s x => convertColumn_same xbm fb p x s) _ s

/-- The conversion changes nothing but the position, the accumulator and the caller's memory. -/
theorem convert_same (xbm fb : BufRef) (s : State) : SameButMem s (convert xbm fb s) :=
  SameButMem.foldl _ (fun s p => convertPage_same xbm fb p s) _ s

/-- The eight gathers of a column touch no memory. -/
theorem gather_mem (xbm : BufRef) (p x : Nat) (l : List Nat) (s : State) :
    (l.foldl (fun s b => gatherBit xbm p x b s) s).mem = s.mem := by
  induction l generalizing s with
  | nil => rfl
  | cons b l ih => exact ih (gatherBit xbm p x b s)

/-- The byte of a column: its eight source pixels, one above the other (44_xbm_converter.md R176). -/
def columnByte (xbm : BufRef) (p x : Nat) (s : State) : Byte :=
  (List.range 8).foldl (fun v b => v ||| (sourceBit xbm (p * 8 + b) x s <<< b)) 0

theorem gather_acc (xbm : BufRef) (p x : Nat) (s : State) :
    ((List.range 8).foldl (fun s b => gatherBit xbm p x b s) s).acc = columnByte xbm p x s := by
  simp only [columnByte, show List.range 8 = [0, 1, 2, 3, 4, 5, 6, 7] from rfl, List.foldl_cons, List.foldl_nil]
  rfl

/-- What one column does to the caller's memory. -/
theorem convertColumn_mem (xbm fb : BufRef) (p x : Nat) (s : State) :
    (convertColumn xbm fb p x s).mem =
      Memory.write s.mem (fb.base + fbOffset s.cfg p x) (columnByte xbm p x s) := by
  have hs := SameButMem.foldl _ (fun s b => gatherBit_same xbm p x b s) (List.range 8) s
  simp only [convertColumn, storeColumn, State.memWrite, gather_mem, gather_acc, hs.cfg]

/-- The byte of a column depends on the geometry and on the bytes of the source bitmap alone. -/
theorem columnByte_congr {s t : State} (xbm : BufRef) (p x : Nat) (hc : t.cfg = s.cfg)
    (h : ∀ b, b < 8 → Memory.read t.mem (xbm.base + xbmOffset s.cfg (p * 8 + b) x) =
      Memory.read s.mem (xbm.base + xbmOffset s.cfg (p * 8 + b) x)) :
    columnByte xbm p x t = columnByte xbm p x s := by
  have hb : ∀ b, b < 8 → sourceBit xbm (p * 8 + b) x t = sourceBit xbm (p * 8 + b) x s := fun b hb => by
    simp only [sourceBit, State.memRead, hc, h b hb]
  simp only [columnByte, show List.range 8 = [0, 1, 2, 3, 4, 5, 6, 7] from rfl, List.foldl_cons, List.foldl_nil,
    hb 0 (by omega), hb 1 (by omega), hb 2 (by omega), hb 3 (by omega), hb 4 (by omega), hb 5 (by omega),
    hb 6 (by omega), hb 7 (by omega)]

/-- A source pixel as the closed form of 44_xbm_converter.md R183 names it. -/
theorem sourceBit_eq (xbm : BufRef) (row x : Nat) (s : State) :
    sourceBit xbm row x s = (BitVec.ofBool (s.xbmPixel xbm row x)).zeroExtend 8 := by
  unfold sourceBit State.xbmPixel State.memRead xbmOffset xbmStride
  generalize Memory.read s.mem _ = v
  have : x % 8 < 8 := Nat.mod_lt _ (by omega)
  generalize x % 8 = k at this ⊢
  interval_cases k <;> revert v <;> decide

/-- The byte of a column is the closed form's byte at its offset. -/
theorem columnByte_eq (xbm : BufRef) (p x : Nat) (s : State) (hx : x < s.cfg.width) :
    columnByte xbm p x s = s.convertedByte xbm (p * s.cfg.width + x) := by
  have h0 : 0 < s.cfg.width := by omega
  have hd : (p * s.cfg.width + x) / s.cfg.width = p := by
    rw [Nat.add_comm, Nat.add_mul_div_right _ _ h0, Nat.div_eq_of_lt hx, Nat.zero_add]
  have hm : (p * s.cfg.width + x) % s.cfg.width = x := by
    rw [Nat.add_comm, Nat.add_mul_mod_self_right, Nat.mod_eq_of_lt hx]
  simp only [columnByte, State.convertedByte, hd, hm, sourceBit_eq]

/-! ## The whole conversion -/

/-- How far a conversion has come: `n` bytes of the frame buffer are converted, and every other byte of memory is
as it was. -/
structure ConvertedTo (xbm fb : BufRef) (s t : State) (n : Nat) : Prop where
  same : SameButMem s t
  wf : Memory.wf t.mem
  done : ∀ i, i < n → Memory.read t.mem (fb.base + i) = s.convertedByte xbm i
  rest : ∀ a, ¬ (fb.base ≤ a ∧ a < fb.base + n) → Memory.read t.mem a = Memory.read s.mem a

/-- One column of a conversion converts the next byte. -/
theorem ConvertedTo.column {xbm fb : BufRef} {s t : State} {p x : Nat} (h : ConvertedTo xbm fb s t (p * s.cfg.width + x))
    (hg : legalGeometry s.cfg = true) (ha : XbmAdmitted s.cfg xbm fb) (hp : p < pages s.cfg) (hx : x < s.cfg.width) :
    ConvertedTo xbm fb s (convertColumn xbm fb p x t) (p * s.cfg.width + (x + 1)) := by
  obtain ⟨hxl, hfl, hov⟩ := ha
  have hcfg := h.same.cfg
  have hi : p * s.cfg.width + x < fbSize s.cfg := by
    rw [fbSize_eq hg]
    calc p * s.cfg.width + x < p * s.cfg.width + s.cfg.width := by omega
      _ = (p + 1) * s.cfg.width := by rw [Nat.add_mul, Nat.one_mul]
      _ ≤ pages s.cfg * s.cfg.width := Nat.mul_le_mul_right _ hp
  have hsrc : ∀ b, b < 8 → xbmOffset s.cfg (p * 8 + b) x < xbm.len := fun b hb => by
    have hrow : p * 8 + b + 1 ≤ s.cfg.height := by have := pages_mul hg; omega
    have hstride := xbmStride_eq hg
    have : x / 8 < xbmStride s.cfg := by omega
    have hmul : (p * 8 + b + 1) * xbmStride s.cfg ≤ s.cfg.height * xbmStride s.cfg := Nat.mul_le_mul_right _ hrow
    rw [Nat.add_mul, Nat.one_mul] at hmul
    have : s.cfg.height * xbmStride s.cfg = xbmSize s.cfg := Nat.mul_comm ..
    unfold xbmOffset
    omega
  have hbyte : columnByte xbm p x t = s.convertedByte xbm (p * s.cfg.width + x) := by
    rw [← columnByte_eq xbm p x s hx]
    refine columnByte_congr xbm p x hcfg fun b hb => h.rest _ ?_
    have := hsrc b hb
    omega
  have hmem : (convertColumn xbm fb p x t).mem =
      Memory.write t.mem (fb.base + (p * s.cfg.width + x)) (s.convertedByte xbm (p * s.cfg.width + x)) := by
    rw [convertColumn_mem, hbyte, hcfg, fbOffset]
  refine ⟨h.same.trans (convertColumn_same xbm fb p x t), ?_, fun i hlt => ?_, fun a hna => ?_⟩
  · rw [hmem]
    exact Memory.write_wf _ _ _ h.wf
  · rw [hmem]
    by_cases he : i = p * s.cfg.width + x
    · rw [he, Memory.read_write_same _ _ _ h.wf]
    · rw [Memory.read_write_other _ _ _ _ (by omega)]
      exact h.done i (by omega)
  · rw [hmem, Memory.read_write_other _ _ _ _ (by omega)]
    exact h.rest a (by omega)

/-- One page of a conversion converts its row of columns. -/
theorem ConvertedTo.page {xbm fb : BufRef} {s t : State} {p : Nat} (h : ConvertedTo xbm fb s t (p * s.cfg.width))
    (hg : legalGeometry s.cfg = true) (ha : XbmAdmitted s.cfg xbm fb) (hp : p < pages s.cfg) :
    ConvertedTo xbm fb s (convertPage xbm fb p t) ((p + 1) * s.cfg.width) := by
  have hcol : ∀ n, n ≤ s.cfg.width → ConvertedTo xbm fb s
      ((List.range n).foldl (fun s x => convertColumn xbm fb p x s) t) (p * s.cfg.width + n) := fun n => by
    induction n with
    | zero => exact fun _ => h
    | succ n ih =>
      intro hn
      rw [List.range_succ, List.foldl_append, List.foldl_cons, List.foldl_nil]
      exact (ih (by omega)).column hg ha hp (by omega)
  have hend := hcol s.cfg.width (Nat.le_refl _)
  rw [Nat.add_mul, Nat.one_mul]
  unfold convertPage
  rw [h.same.cfg]
  exact hend

/-- At the start of a conversion nothing is converted. -/
theorem ConvertedTo.start (xbm fb : BufRef) {s : State} (hw : Memory.wf s.mem) : ConvertedTo xbm fb s s 0 where
  same := .refl s
  wf := hw
  done := fun i hi => absurd hi (Nat.not_lt_zero i)
  rest := fun _ _ => rfl

/-- The conversion stores the closed form's byte at every offset of the frame buffer and changes no other byte
(44_xbm_converter.md R178, R183). -/
theorem convert_spec {xbm fb : BufRef} {s : State} (hw : Memory.wf s.mem) (hg : legalGeometry s.cfg = true)
    (ha : XbmAdmitted s.cfg xbm fb) : ConvertedTo xbm fb s (convert xbm fb s) (fbSize s.cfg) := by
  have hall : ∀ n, n ≤ pages s.cfg → ConvertedTo xbm fb s
      ((List.range n).foldl (fun s p => convertPage xbm fb p s) s) (n * s.cfg.width) := fun n => by
    induction n with
    | zero =>
      intro _
      rw [List.range_zero, List.foldl_nil, Nat.zero_mul]
      exact .start xbm fb hw
    | succ n ih =>
      intro hn
      rw [List.range_succ, List.foldl_append, List.foldl_cons, List.foldl_nil]
      exact (ih (by omega)).page hg ha (by omega)
  have hend := hall (pages s.cfg) (Nat.le_refl _)
  rw [fbSize_eq hg]
  unfold convert
  exact hend

end Sys2Proof.Machine
end

