-- ==== Sys2Proof/Laws/Decode.lean ====
section
/-! SUPPORT. The opcode map has no overlaps: two of its rows differ in a bit that both fix. -/

namespace Sys2Proof

/-- No byte fits the first-byte patterns of two rows that differ in a bit both of them fix. -/
theorem BytePattern.not_both {p q : BytePattern} (h : p.mask &&& q.mask &&& (p.value ^^^ q.value) ≠ 0) (v : Byte)
    (hp : p.fits v = true) : q.fits v = false := by
  rw [Bool.eq_false_iff]
  intro hq
  simp only [BytePattern.fits, beq_iff_eq] at hp hq
  refine h ?_
  rw [← hp, ← hq]
  ext i hi
  simp only [BitVec.getElem_and, BitVec.getElem_xor]
  cases v[i] <;> cases p.mask[i] <;> cases q.mask[i] <;> simp

/-- The rows of the opcode map (30_encoding.md R88) do not overlap. -/
theorem commandRows_disjoint :
    commandRows.Pairwise fun r q =>
      r.first.mask &&& q.first.mask &&& (r.first.value ^^^ q.first.value) ≠ 0 := by
  decide

end Sys2Proof
end

