-- ==== Sys2Proof/Laws/Exec.lean ====
section
/-! SUPPORT. What exec can do, said once for all operations: it launches the operation, and where it answers a next
state that state is the closed form of the operation's bus writes. -/

namespace Sys2Proof.Machine

/-- The state in which an operation's transfers begin: the converted one for LOAD_XBM, else the given one. -/
def prepared (i : Instr) (s : State) : State :=
  match i with
  | .loadXbm (some xbm) (some fb) => convert xbm fb s
  | _ => s

/-- The operation after its checks: prepare, then run the transfers. -/
def operationOf (i : Instr) (s : State) : State :=
  runTransfers (operationTransfers i (prepared i s)) (prepared i s)

/-- Preparing changes nothing but the position, the accumulator and the caller's memory. -/
theorem prepared_same (i : Instr) (s : State) : SameButMem s (prepared i s) := by
  unfold prepared
  split
  · exact convert_same _ _ s
  · exact .refl s

/-- exec is the launch of the operation. -/
theorem exec_admitted (i : Instr) (s : State) (h : bufferCheck s.cfg i = none) :
    exec i s = launch none (operationOf i) s := by
  cases i with
  | loadFb buf => exact congrArg (fun c => launch c _ s) h
  | loadXbm xbm fb =>
    cases xbm with
    | none => simp [bufferCheck, checkXbm] at h
    | some x =>
      cases fb with
      | none => simp [bufferCheck, checkXbm] at h
      | some f => exact congrArg (fun c => launch c _ s) h
  | _ => rfl

/-- Where exec answers a next state, the block was ready, the buffers were admitted, and the state is the
operation's. -/
theorem exec_next {i : Instr} {s t : State} (h : exec i s = .next t) :
    s.Ready ∧ bufferCheck s.cfg i = none ∧ t = operationOf i s := by
  have hcheck : bufferCheck s.cfg i = none := by
    cases i with
    | loadFb buf => exact (launch_next h).2.1
    | loadXbm xbm fb => exact (launch_next h).2.1
    | _ => rfl
  rw [exec_admitted i s hcheck] at h
  exact ⟨(launch_next h).1, hcheck, (launch_next h).2.2⟩

/-- A ready block with admitted buffers completes the operation. -/
theorem exec_ready {i : Instr} {s : State} (h : s.Ready) (hc : bufferCheck s.cfg i = none) :
    exec i s = .next (operationOf i s) := by
  rw [exec_admitted i s hc, launch_ready h rfl]

/-- exec never faults. -/
theorem exec_no_fault (i : Instr) (s : State) (f : Fault) : exec i s ≠ .fault f := by
  cases i <;> exact launch_no_fault f

/-- Every operation makes at least one transfer. -/
theorem operationTransfers_ne_nil (i : Instr) (s : State) : operationTransfers i s ≠ [] := by
  cases hg : s.params.cmdGrouping <;> cases i <;>
    simp [operationTransfers, initTransfers, initRows, loadFbTransfers, windowTransfers, cmdSeq, hg, commandBytes,
      rawCmdBytes, displayOnBytes, startLineBytes, offsetBytes, chargePumpBytes, addrModeBytes, segRemapBytes,
      scanDirBytes, comPinsBytes, contrastBytes, inversionBytes, oscFreqBytes, muxRatioBytes, colWindowBytes,
      pageWindowBytes, prechargeBytes, vcomhBytes, wholeOnBytes]

/-- The operation in closed form. -/
theorem operationOf_eq (i : Instr) (s : State) (he : s.params.errUnsupported ≠ 0) :
    operationOf i s = (prepared i s).afterSending (unitsOf (operationTransfers i (prepared i s))) := by
  obtain ⟨t, ts, h⟩ := List.exists_cons_of_ne_nil (operationTransfers_ne_nil i (prepared i s))
  rw [operationOf, h, runTransfers_eq t ts _ (by rw [(prepared_same i s).params]; exact he)]

end Sys2Proof.Machine
end

