-- ==== Sys2Proof/Laws/PerInstr.lean ====
section
/-! SUPPORT. Statements about every operation as syntax, one lemma for each constructor: its selector is one of the
21, and its command bytes are as many as its format says. -/

namespace Sys2Proof

/-- The request of an operation selects one of the 21 operations (30_encoding.md R97). -/
def Laws.RequestSelector.Statement (i : Instr) : Prop := (encodeRequest i).sel.toNat < 21

/-- The command bytes of a setting or of RAW_CMD are 1, 2 or 3 (30_encoding.md R80); those of the macros are 25 and
8 (42_init_sequencer.md R150, 43_frame_buffer_transfer.md R160). -/
def Laws.CommandLength.Statement (i : Instr) : Prop :=
  ∀ (p : Params) (d : Descriptor),
    if i.isMacro then (encode p d i).length = 25 ∨ (encode p d i).length = 8
    else 1 ≤ (encode p d i).length ∧ (encode p d i).length ≤ 3

theorem Laws.RequestSelector.rawCmd (byte : Byte) : Laws.RequestSelector.Statement (.rawCmd byte) :=
  (by decide : (0 : Nat) < 21)

theorem Laws.RequestSelector.init : Laws.RequestSelector.Statement .init :=
  (by decide : (1 : Nat) < 21)

theorem Laws.RequestSelector.loadFb (buf : Option BufRef) : Laws.RequestSelector.Statement (.loadFb buf) := by
  cases buf <;> exact (by decide : (2 : Nat) < 21)

theorem Laws.RequestSelector.loadXbm (xbm : Option BufRef) (fb : Option BufRef) : Laws.RequestSelector.Statement (.loadXbm xbm fb) :=
  (by decide : (3 : Nat) < 21)

theorem Laws.RequestSelector.displayOn (on : Byte) : Laws.RequestSelector.Statement (.displayOn on) :=
  (by decide : (4 : Nat) < 21)

theorem Laws.RequestSelector.setStartLine (start : Byte) : Laws.RequestSelector.Statement (.setStartLine start) :=
  (by decide : (5 : Nat) < 21)

theorem Laws.RequestSelector.setOffset (offset : Byte) : Laws.RequestSelector.Statement (.setOffset offset) :=
  (by decide : (6 : Nat) < 21)

theorem Laws.RequestSelector.setChargePump (enabled : Byte) : Laws.RequestSelector.Statement (.setChargePump enabled) :=
  (by decide : (7 : Nat) < 21)

theorem Laws.RequestSelector.setAddrMode (mode : Byte) : Laws.RequestSelector.Statement (.setAddrMode mode) :=
  (by decide : (8 : Nat) < 21)

theorem Laws.RequestSelector.setSegRemap (on : Byte) : Laws.RequestSelector.Statement (.setSegRemap on) :=
  (by decide : (9 : Nat) < 21)

theorem Laws.RequestSelector.setScanDir (backward : Byte) : Laws.RequestSelector.Statement (.setScanDir backward) :=
  (by decide : (10 : Nat) < 21)

theorem Laws.RequestSelector.setComPins (config : Byte) : Laws.RequestSelector.Statement (.setComPins config) :=
  (by decide : (11 : Nat) < 21)

theorem Laws.RequestSelector.setContrast (contrast : Byte) : Laws.RequestSelector.Statement (.setContrast contrast) :=
  (by decide : (12 : Nat) < 21)

theorem Laws.RequestSelector.setInversion (inverse : Byte) : Laws.RequestSelector.Statement (.setInversion inverse) :=
  (by decide : (13 : Nat) < 21)

theorem Laws.RequestSelector.setOscFreq (oscFreq : Byte) : Laws.RequestSelector.Statement (.setOscFreq oscFreq) :=
  (by decide : (14 : Nat) < 21)

theorem Laws.RequestSelector.setMuxRatio (ratio : Byte) : Laws.RequestSelector.Statement (.setMuxRatio ratio) :=
  (by decide : (15 : Nat) < 21)

theorem Laws.RequestSelector.setColWindow (start : Byte) (stop : Byte) : Laws.RequestSelector.Statement (.setColWindow start stop) :=
  (by decide : (16 : Nat) < 21)

theorem Laws.RequestSelector.setPageWindow (start : Byte) (stop : Byte) : Laws.RequestSelector.Statement (.setPageWindow start stop) :=
  (by decide : (17 : Nat) < 21)

theorem Laws.RequestSelector.setPrecharge (prchrg : Byte) : Laws.RequestSelector.Statement (.setPrecharge prchrg) :=
  (by decide : (18 : Nat) < 21)

theorem Laws.RequestSelector.setVcomh (lvl : Byte) : Laws.RequestSelector.Statement (.setVcomh lvl) :=
  (by decide : (19 : Nat) < 21)

theorem Laws.RequestSelector.setWholeOn (force : Byte) : Laws.RequestSelector.Statement (.setWholeOn force) :=
  (by decide : (20 : Nat) < 21)

theorem Laws.CommandLength.rawCmd (byte : Byte) : Laws.CommandLength.Statement (.rawCmd byte) := fun _ _ => by
  simp [encode, Instr.isMacro]

theorem Laws.CommandLength.init : Laws.CommandLength.Statement .init := fun _ _ => by
  simp [encode, Instr.isMacro]

theorem Laws.CommandLength.loadFb (buf : Option BufRef) : Laws.CommandLength.Statement (.loadFb buf) := fun _ _ => by
  simp [encode, encode.encodeWindows, Instr.isMacro]

theorem Laws.CommandLength.loadXbm (xbm : Option BufRef) (fb : Option BufRef) : Laws.CommandLength.Statement (.loadXbm xbm fb) := fun _ _ => by
  simp [encode, encode.encodeWindows, Instr.isMacro]

theorem Laws.CommandLength.displayOn (on : Byte) : Laws.CommandLength.Statement (.displayOn on) := fun _ _ => by
  simp [encode, Instr.isMacro]

theorem Laws.CommandLength.setStartLine (start : Byte) : Laws.CommandLength.Statement (.setStartLine start) := fun _ _ => by
  simp [encode, Instr.isMacro]

theorem Laws.CommandLength.setOffset (offset : Byte) : Laws.CommandLength.Statement (.setOffset offset) := fun _ _ => by
  simp [encode, Instr.isMacro]

theorem Laws.CommandLength.setChargePump (enabled : Byte) : Laws.CommandLength.Statement (.setChargePump enabled) := fun _ _ => by
  simp [encode, Instr.isMacro]

theorem Laws.CommandLength.setAddrMode (mode : Byte) : Laws.CommandLength.Statement (.setAddrMode mode) := fun _ _ => by
  simp [encode, Instr.isMacro]

theorem Laws.CommandLength.setSegRemap (on : Byte) : Laws.CommandLength.Statement (.setSegRemap on) := fun _ _ => by
  simp [encode, Instr.isMacro]

theorem Laws.CommandLength.setScanDir (backward : Byte) : Laws.CommandLength.Statement (.setScanDir backward) := fun _ _ => by
  simp [encode, Instr.isMacro]

theorem Laws.CommandLength.setComPins (config : Byte) : Laws.CommandLength.Statement (.setComPins config) := fun _ _ => by
  simp [encode, Instr.isMacro]

theorem Laws.CommandLength.setContrast (contrast : Byte) : Laws.CommandLength.Statement (.setContrast contrast) := fun _ _ => by
  simp [encode, Instr.isMacro]

theorem Laws.CommandLength.setInversion (inverse : Byte) : Laws.CommandLength.Statement (.setInversion inverse) := fun _ _ => by
  simp [encode, Instr.isMacro]

theorem Laws.CommandLength.setOscFreq (oscFreq : Byte) : Laws.CommandLength.Statement (.setOscFreq oscFreq) := fun _ _ => by
  simp [encode, Instr.isMacro]

theorem Laws.CommandLength.setMuxRatio (ratio : Byte) : Laws.CommandLength.Statement (.setMuxRatio ratio) := fun _ _ => by
  simp [encode, Instr.isMacro]

theorem Laws.CommandLength.setColWindow (start : Byte) (stop : Byte) : Laws.CommandLength.Statement (.setColWindow start stop) := fun _ _ => by
  simp [encode, Instr.isMacro]

theorem Laws.CommandLength.setPageWindow (start : Byte) (stop : Byte) : Laws.CommandLength.Statement (.setPageWindow start stop) := fun _ _ => by
  simp [encode, Instr.isMacro]

theorem Laws.CommandLength.setPrecharge (prchrg : Byte) : Laws.CommandLength.Statement (.setPrecharge prchrg) := fun _ _ => by
  simp [encode, Instr.isMacro]

theorem Laws.CommandLength.setVcomh (lvl : Byte) : Laws.CommandLength.Statement (.setVcomh lvl) := fun _ _ => by
  simp [encode, Instr.isMacro]

theorem Laws.CommandLength.setWholeOn (force : Byte) : Laws.CommandLength.Statement (.setWholeOn force) := fun _ _ => by
  simp [encode, Instr.isMacro]

end Sys2Proof
end

