-- ==== Sys2Proof/Laws/Sequencer.lean ====
section
/-! SUPPORT. What one move of the sequencer can do: the fields it leaves alone, and that the lines of a chip-select
frame make up one call of TxSend. -/

namespace Sys2Proof.Machine

/-- The fields no move of the sequencer writes. -/
structure SameHost (s t : State) : Prop where
  cfg : t.cfg = s.cfg
  params : t.params = s.params
  req : t.req = s.req
  port : t.port = s.port

theorem SameHost.refl (s : State) : SameHost s s := ⟨rfl, rfl, rfl, rfl⟩

theorem SameHost.trans {s t u : State} (h : SameHost s t) (k : SameHost t u) : SameHost s u :=
  ⟨k.cfg.trans h.cfg, k.params.trans h.params, k.req.trans h.req, k.port.trans h.port⟩

theorem txSend_host (tag : Tag) (bytes : List Byte) (s : State) : SameHost s (txSend tag bytes s).2 := by
  cases h : s.cfg.transport <;> constructor <;> simp [txSend, h, txI2c, txSpi4, txSpi3, State.busWrite]

theorem afterTransfer_host (st : Status) (rest : List Transfer) (s : State) : SameHost s (afterTransfer st rest s) := by
  unfold afterTransfer
  split
  · cases rest <;> exact ⟨rfl, rfl, rfl, rfl⟩
  · exact ⟨rfl, rfl, rfl, rfl⟩

theorem tickFrame_host (p : Pos) (t : Transfer) (rest : List Transfer) (s : State) (line : Option FrameLine) :
    SameHost s (tickFrame p t rest s line) := by
  match line with
  | none => exact ⟨rfl, rfl, rfl, rfl⟩
  | some .driven => exact ⟨rfl, rfl, rfl, rfl⟩
  | some .selected => exact ⟨rfl, rfl, rfl, rfl⟩
  | some (.written st) =>
    exact .trans (t := s.driveCs .deasserted) ⟨rfl, rfl, rfl, rfl⟩ (afterTransfer_host st rest _)

/-- A move that makes a transfer, or a line of its frame, writes none of the host's fields. -/
theorem tickTransfer_host {ts : List Transfer} {s t : State} (h : tickTransfer ts s = .next t) : SameHost s t := by
  unfold tickTransfer at h
  split at h
  · cases h
  · split at h
    · cases h; exact tickFrame_host ..
    · cases h; exact tickFrame_host ..
    · cases h
    · cases h; exact .trans (txSend_host ..) (afterTransfer_host ..)

/-- A move of the converter writes none of the host's fields. -/
theorem tickXbm_host (xbm fb : BufRef) (p x b : Nat) (s : State) : SameHost s (tickXbm xbm fb p x b s) := by
  unfold tickXbm
  simp only
  split <;> exact ⟨rfl, rfl, rfl, rfl⟩

/-- A move of the sequencer leaves the descriptor, the parameters, the latched request and the port alone. -/
theorem tick_host {s t : State} (h : tick s = .next t) : SameHost s t := by
  unfold tick at h
  split at h
  · cases h
  · split at h
    · cases h
    · unfold tickInside at h
      split at h
      · split at h
        · cases h; exact tickXbm_host ..
        · cases h
      · exact tickTransfer_host h

/-- Where a transfer is made plays no part in how it ends. -/
theorem afterTransfer_pos (st : Status) (rest : List Transfer) (s : State) (p : Pos) :
    afterTransfer st rest { s with pos := p } = afterTransfer st rest s := by
  unfold afterTransfer
  split
  · cases rest <;> rfl
  · rfl

/-- The four lines of a chip-select frame are one call of TxSend (40_transport_encoder.md R102). -/
theorem tickFrame_run (p : Pos) (t : Transfer) (rest : List Transfer) (s : State) :
    tickFrame p t rest
        (tickFrame p t rest (tickFrame p t rest (tickFrame p t rest s none) (some .driven)) (some .selected))
        (some (.written (txSpi4 t.tag t.bytes s).1)) =
      afterTransfer (txSpi4 t.tag t.bytes s).1 rest (txSpi4 t.tag t.bytes s).2 :=
  (afterTransfer_pos _ rest _ (.frame p (.written (txSpi4 t.tag t.bytes s).1))).symm ▸ rfl

end Sys2Proof.Machine
end

