-- ==== Sys2Proof/Tests/Slice0.lean ====
section
/-! SUPPORT. Tests of the model by single steps on a small state, with the expected bytes taken from
95_test_vectors.md and from the encoding tables of 30_encoding.md, and a witness for the hypotheses of each
statement. -/

namespace Sys2Proof.Tests

open Sys2Proof.Machine

/-! ## Well-formed instructions: each check refuses an ill-formed term -/

theorem test_wellFormed_bit : (Instr.displayOn 1).wellFormed = true ∧ (Instr.displayOn 2).wellFormed = false ∧
    (Instr.setChargePump 0x14).wellFormed = false ∧ (Instr.setSegRemap 0x80).wellFormed = false ∧
    (Instr.setScanDir 8).wellFormed = false ∧ (Instr.setInversion 0xA6).wellFormed = false ∧
    (Instr.setWholeOn 0x55).wellFormed = false := by decide

theorem test_wellFormed_mask6 : (Instr.setStartLine 0x3F).wellFormed = true ∧
    (Instr.setStartLine 0x40).wellFormed = false ∧ (Instr.setOffset 0x80).wellFormed = false ∧
    (Instr.setMuxRatio 0xFF).wellFormed = false := by decide

theorem test_wellFormed_mask2 : (Instr.setAddrMode 3).wellFormed = true ∧
    (Instr.setAddrMode 4).wellFormed = false := by decide

theorem test_wellFormed_null : (Instr.loadFb none).wellFormed = true ∧
    (Instr.loadXbm none (some ⟨0, 192⟩)).wellFormed = false ∧
    (Instr.loadXbm (some ⟨0, 192⟩) none).wellFormed = false := by decide

theorem test_wellFormed_overlap : (Instr.loadXbm (some ⟨0, 192⟩) (some ⟨192, 192⟩)).wellFormed = true ∧
    (Instr.loadXbm (some ⟨0, 192⟩) (some ⟨191, 192⟩)).wellFormed = false := by decide

/-! ## Decoding: words written out bit by bit from the encoding tables (30_encoding.md R81 to R83) -/

theorem test_word_rawCmd : decodeTableWord 8 0b00000000 = some (.rawCmd 0x00) ∧
    decodeTableWord 8 0b11100011 = some (.rawCmd 0xE3) := by decide

theorem test_word_displayOn : decodeTableWord 8 0b10101110 = some (.displayOn 0) ∧
    decodeTableWord 8 0b10101111 = some (.displayOn 1) := by decide

theorem test_word_setStartLine : decodeTableWord 8 0b01101010 = some (.setStartLine 0x2A) := by decide

theorem test_word_setOffset : decodeTableWord 16 0b1101001100011111 = some (.setOffset 0x1F) := by decide

theorem test_word_setChargePump : decodeTableWord 16 0b1000110100010000 = some (.setChargePump 0) ∧
    decodeTableWord 16 0b1000110100010100 = some (.setChargePump 1) := by decide

theorem test_word_setAddrMode : decodeTableWord 16 0b0010000000000010 = some (.setAddrMode 2) := by decide

theorem test_word_setSegRemap : decodeTableWord 8 0b10100001 = some (.setSegRemap 1) := by decide

theorem test_word_setScanDir : decodeTableWord 8 0b11000000 = some (.setScanDir 0) ∧
    decodeTableWord 8 0b11001000 = some (.setScanDir 1) := by decide

theorem test_word_setComPins : decodeTableWord 16 0b1101101000010010 = some (.setComPins 0x12) := by decide

theorem test_word_setContrast : decodeTableWord 16 0b1000000110101110 = some (.setContrast 0xAE) := by decide

theorem test_word_setInversion : decodeTableWord 8 0b10100111 = some (.setInversion 1) := by decide

theorem test_word_setOscFreq : decodeTableWord 16 0b1101010111110000 = some (.setOscFreq 0xF0) := by decide

theorem test_word_setMuxRatio : decodeTableWord 16 0b1010100000001111 = some (.setMuxRatio 0x0F) := by decide

theorem test_word_setColWindow :
    decodeTableWord 24 0b001000010010000000111111 = some (.setColWindow 0x20 0x3F) := by decide

theorem test_word_setPageWindow :
    decodeTableWord 24 0b001000100000100111111111 = some (.setPageWindow 0x09 0xFF) := by decide

theorem test_word_setPrecharge : decodeTableWord 16 0b1101100111110001 = some (.setPrecharge 0xF1) := by decide

theorem test_word_setVcomh : decodeTableWord 16 0b1101101101000000 = some (.setVcomh 0x40) := by decide

theorem test_word_setWholeOn : decodeTableWord 8 0b10100101 = some (.setWholeOn 1) := by decide

/-- The whole row of INIT, with the stream of 95_test_vectors.md V-INIT for 64 rows. -/
theorem test_word_init :
    decodeTableWord 200 0xAED580A83FD300408D14A1C8DA12817FD922DB20A42000A6AF = some .init := by decide

theorem test_word_loadFb : decodeTableWord 64 0x21007F2200072000 = some (.loadFb none) := by decide

/-- LOAD_XBM has no encoding of its own (30_encoding.md R96): only its request tells it from LOAD_FB. -/
theorem test_request_loadXbm : decodeRequest ⟨3, 0, 0, false, some ⟨192, 192⟩, some ⟨0, 192⟩⟩ =
    .ok (.loadXbm (some ⟨0, 192⟩) (some ⟨192, 192⟩)) := by decide

theorem test_request_refused : decodeRequest (.plain 21) = .error .noSuchOperation ∧
    decodeRequest (.plain 31) = .error .noSuchOperation ∧
    decodeRequest (.plain 2) = .error .missingBuffer := by decide

theorem test_decode_stops : decode [] = .error .emptyStream ∧ decode [0x21, 0x00] = .error .truncated ∧
    decode [0x20, 0x04] = .error .parameterBits ∧ decode [0x8D, 0x15] = .error .parameterBits := by decide

/-! ## Single steps: the vectors of V-CMD, V-TX, V-INIT, V-FB, V-XBM, V-ERR and the programs P1 to P6 -/

/-- A small panel after reset, with the bus driver's coming answers. -/
def panel (transport : Transport) (width height : Nat) (answers : List BusAnswer) : State :=
  { State.reset with
    cfg := { transport := transport, i2cAddr := 0x3C, csPin := 4, dcPin := 5, width := width, height := height }
    busIn := answers }

/-- `n` answers that accept. -/
def accepting (n : Nat) : List BusAnswer := List.replicate n ⟨0, 0⟩

/-- A 96 by 16 panel whose driver accepts. -/
def small (transport : Transport) : State := panel transport 96 16 (accepting 300)

/-- The bytes with the command tag. -/
def commands (bytes : List Byte) : List TaggedByte := bytes.map fun v => (.cmd, v)

/-- What an operation delivered, and its status. -/
def outcome : Result → Option (List TaggedByte × Option Status)
  | .next t => some (t.stream, t.status)
  | _ => none

/-- The command bytes a setting delivered on a small panel, when it succeeded. -/
def sends (i : Instr) (bytes : List Byte) : Bool :=
  outcome (exec i (small .i2c)) = some (commands bytes, some 0)

/-- The step or operation ended in a next state of which `p` holds. -/
def ends (r : Result) (p : State → Bool) : Bool :=
  match r with
  | .next t => p t
  | _ => false

/-- The events of an operation, and its status. -/
def wire : Result → Option (List Event × Option Status)
  | .next t => some (t.trace, t.status)
  | _ => none

theorem test_rawCmd : sends (.rawCmd 0x00) [0x00] ∧ sends (.rawCmd 0xE3) [0xE3] := by decide

theorem test_displayOn : sends (.displayOn 0) [0xAE] ∧ sends (.displayOn 0x02) [0xAF] := by decide

theorem test_setStartLine : sends (.setStartLine 0x47) [0x47] ∧ sends (.setStartLine 0x80) [0x40] := by decide

theorem test_setOffset : sends (.setOffset 0x1F) [0xD3, 0x1F] ∧ sends (.setOffset 0x40) [0xD3, 0x00] := by decide

theorem test_setChargePump : sends (.setChargePump 0) [0x8D, 0x10] ∧
    sends (.setChargePump 0x10) [0x8D, 0x14] := by decide

theorem test_setAddrMode : sends (.setAddrMode 0xFE) [0x20, 0x02] ∧
    sends (.setAddrMode 3) [0x20, 0x03] := by decide

theorem test_setSegRemap : sends (.setSegRemap 0) [0xA0] ∧ sends (.setSegRemap 0xFE) [0xA1] := by decide

theorem test_setScanDir : sends (.setScanDir 0) [0xC0] ∧ sends (.setScanDir 1) [0xC8] := by decide

theorem test_setComPins : sends (.setComPins 0xFF) [0xDA, 0xFF] := by decide

theorem test_setContrast : sends (.setContrast 0xAE) [0x81, 0xAE] := by decide

theorem test_setInversion : sends (.setInversion 0) [0xA6] ∧ sends (.setInversion 0xA6) [0xA7] := by decide

theorem test_setOscFreq : sends (.setOscFreq 0xF0) [0xD5, 0xF0] := by decide

theorem test_setMuxRatio : sends (.setMuxRatio 0x0F) [0xA8, 0x0F] ∧ sends (.setMuxRatio 0x40) [0xA8, 0x00] := by
  decide

theorem test_setColWindow : sends (.setColWindow 0x7F 0x00) [0x21, 0x7F, 0x00] := by decide

theorem test_setPageWindow : sends (.setPageWindow 0x09 0xFF) [0x22, 0x09, 0xFF] := by decide

theorem test_setPrecharge : sends (.setPrecharge 0xF1) [0xD9, 0xF1] := by decide

theorem test_setVcomh : sends (.setVcomh 0x40) [0xDB, 0x40] := by decide

theorem test_setWholeOn : sends (.setWholeOn 0) [0xA4] ∧ sends (.setWholeOn 0x55) [0xA5] := by decide

/-- V-INIT for 16 rows. -/
theorem test_init_stream :
    outcome (exec .init (small .i2c)) =
      some (commands [ 0xAE, 0xD5, 0x80, 0xA8, 0x0F, 0xD3, 0x00, 0x40, 0x8D, 0x14, 0xA1, 0xC8, 0xDA, 0x02, 0x81,
        0x7F, 0xD9, 0x22, 0xDB, 0x20, 0xA4, 0x20, 0x00, 0xA6, 0xAF ], some 0) := by decide

/-- P5: the fourth write fails with 7. -/
theorem test_init_fails :
    wire (exec .init (panel .i2c 128 64 (accepting 3 ++ [⟨7, 0⟩]))) =
      some ([ .i2c 0x3C [0x00, 0xAE] 0, .i2c 0x3C [0x00, 0xD5] 0, .i2c 0x3C [0x00, 0x80] 0,
        .i2c 0x3C [0x00, 0xA8] 7 ], some 7) := by decide

/-- V-ERR: DISPLAY_ON 1 under 4-wire SPI, the write fails with -1; the chip select is released. -/
theorem test_displayOn_fails :
    wire (exec (.displayOn 1) (panel .spi4 128 64 [⟨-1, 0⟩])) =
      some ([ .pin 5 .low, .pin 4 .low, .spi [0xAF] (-1), .pin 4 .high ], some (-1)) := by decide

/-- V-ERR: SET_CONTRAST 0x10 under I2C, the second write fails with 6. -/
theorem test_setContrast_fails :
    wire (exec (.setContrast 0x10) (panel .i2c 128 64 [⟨0, 0⟩, ⟨6, 0⟩])) =
      some ([ .i2c 0x3C [0x00, 0x81] 0, .i2c 0x3C [0x00, 0x10] 6 ], some 6) := by decide

/-- V-FB-4: write 5 fails with 2; the data is never reached. -/
theorem test_loadFb_fails :
    wire (exec (.loadFb none) (panel .i2c 128 64 (accepting 4 ++ [⟨2, 0⟩]))) =
      some ([ .i2c 0x3C [0x00, 0x21] 0, .i2c 0x3C [0x00, 0x00] 0, .i2c 0x3C [0x00, 0x7F] 0,
        .i2c 0x3C [0x00, 0x22] 0, .i2c 0x3C [0x00, 0x00] 2 ], some 2) := by decide +kernel

/-- P2, third operation: 96 by 16, 4-wire SPI, three chunks of 64 zeros. -/
theorem test_loadFb_null :
    ends (exec (.loadFb none) (small .spi4))
      (fun t => t.busCount = 11 ∧ t.trace.length = 44 ∧ t.dc = .high ∧ t.cs = .deasserted ∧
          t.trace.drop 40 = [ .pin 5 .high, .pin 4 .low, .spi (List.replicate 64 0x00) 0, .pin 4 .high ]) = true := by decide +kernel

/-- A bitmap of 192 bytes at address 0 with the one byte at offset 119 equal to 0x80 (V-XBM-1: 96 by 16, row 9,
column 95), and a frame buffer at 192 with a stale byte. -/
def onePixel (transport : Transport) : State := { small transport with mem := [(119, 0x80), (200, 0xEE)] }

/-- V-XBM-1: FB[191] = 02, every other byte of the frame buffer 0, the bitmap as it was. -/
theorem test_loadXbm_onePixel :
    ends (exec (.loadXbm (some ⟨0, 192⟩) (some ⟨192, 192⟩)) (onePixel .i2c))
      (fun t => t.mem = [(119, 0x80), (192 + 191, 0x02)] ∧ t.status = some 0 ∧ t.busCount = 20) = true := by decide +kernel

/-- P6: under 3-wire SPI the conversion is done, nothing is sent and the status is ERR_UNSUPPORTED. -/
theorem test_loadXbm_unsupported :
    ends (exec (.loadXbm (some ⟨0, 192⟩) (some ⟨192, 192⟩)) (onePixel .spi3))
      (fun t => t.mem = [(119, 0x80), (192 + 191, 0x02)] ∧ t.status = some 1 ∧ t.trace = []) = true := by decide +kernel

/-- V-TX: CmdSeq([22,00,07]) under both groupings, and a second byte that fails. -/
theorem test_cmdSeq_groupings :
    wire (exec (.setPageWindow 0x00 0x07) (panel .i2c 128 64 [⟨0, 0⟩, ⟨3, 0⟩])) =
      some ([ .i2c 0x3C [0x00, 0x22] 0, .i2c 0x3C [0x00, 0x00] 3 ], some 3) ∧
    wire (exec (.setPageWindow 0x00 0x07)
        { small .i2c with params := { paramsAtReset with cmdGrouping := .perCommand } }) =
      some ([ .i2c 0x3C [0x00, 0x22, 0x00, 0x07] 0 ], some 0) := by decide

/-- V-GEO, all six geometries. -/
theorem test_geometry : ([(96, 16), (96, 32), (96, 64), (128, 16), (128, 32), (128, 64)].map fun g =>
      let d := { descriptorAtReset with width := g.1, height := g.2 }
      (fbSize d, pages d, xbmStride d, xbmSize d)) =
    [ (192, 2, 12, 192), (384, 4, 12, 384), (768, 8, 12, 768), (256, 2, 16, 256), (512, 4, 16, 512),
      (1024, 8, 16, 1024) ] := by decide

/-- A step takes the request presented after reset. -/
theorem test_step_after_reset :
    ends (step { State.reset with port := [.request ⟨12, 0xFF, 0, false, none, none⟩], busIn := accepting 2 })
      (fun t => t.stream = [(.cmd, 0x81), (.cmd, 0xFF)] ∧ t.port = [] ∧ t.req.sel = 12) = true := by decide

/-- 70_reset_and_hazards.md R220: started from reset over 4-wire SPI, a RAW_CMD stands with the chip select asserted
after three steps, and a reset then releases it, with no status and nothing sent. -/
theorem test_reset_inside_frame :
    ends (steps 3 { State.reset with
        cfg := (small .spi4).cfg, port := [.start (.withA 0 0xE3), .pass, .pass, .reset] })
      (fun t => t.cs = .asserted ∧ t.dc = .low ∧ t.status = none) = true ∧
    ends (steps 4 { State.reset with
        cfg := (small .spi4).cfg, port := [.start (.withA 0 0xE3), .pass, .pass, .reset] })
      (fun t => t.cs = .deasserted ∧ t.pos = .idle ∧ t.status = none ∧ t.busCount = 0 ∧ t.stream = []) = true := by
  decide

/-- V-ERR, one line of the frame a step: DISPLAY_ON 1 over 4-wire SPI, the write fails with -1. -/
theorem test_started_displayOn_fails :
    wire (steps 5 { panel .spi4 128 64 [⟨-1, 0⟩] with port := [.start (.withA 4 1)] }) =
      some ([ .pin 5 .low, .pin 4 .low, .spi [0xAF] (-1), .pin 4 .high ], some (-1)) := by decide

/-- The sink took the whole stream, and `p` holds of it. -/
def sinkAfter (r : Except SinkRefusal Sink) (p : Sink → Bool) : Bool :=
  match r with
  | .ok k => p k
  | .error _ => false

/-- A target in an arbitrary state: Page mode, stale windows, a stale byte of display RAM. -/
def anySink : Sink :=
  { ram := [(3, 0xEE)], pagePtr := 3, colPtr := 200, colStart := 9, colStop := 1, pageStart := 3, pageStop := 2,
    mode := .page, displayOn := false, startLine := 5, offset := 1, chargePump := false, segRemap := false,
    scanBackward := false, comPins := 0, contrast := 0, inverse := true, oscFreq := 0, muxRatio := 0,
    precharge := 0, vcomh := 0, wholeOn := true, pending := [] }

/-- The pointer wraps inside a window of one page and two columns (20_memory.md R73, R74). -/
theorem test_sink_horizontal_wrap :
    sinkAfter (Sink.run [(.cmd, 0x21), (.cmd, 0), (.cmd, 1), (.cmd, 0x22), (.cmd, 0), (.cmd, 0), (.cmd, 0x20), (.cmd, 0),
        (.data, 0x11), (.data, 0x22), (.data, 0x33)] anySink)
      (fun k => k.ramAt 0 0 = 0x33 ∧ k.ramAt 0 1 = 0x22 ∧ k.mode = .horizontal) = true := by decide

/-! ## Witnesses: states and operands that meet the hypotheses of each statement -/

/-- 20_memory.md R72: of the mode's parameter bits 1:0 count. -/
theorem test_sink_mode_bits :
    sinkAfter (Sink.run [(.cmd, 0x20), (.cmd, 0x04)] anySink)
      (fun k => k.mode = .horizontal ∧ k.pending = []) = true ∧
    sinkAfter (Sink.run [(.cmd, 0x20), (.cmd, 0xFD)] anySink) (fun k => k.mode = .vertical) = true ∧
    Sink.run [(.cmd, 0x20), (.cmd, 0xFF)] anySink = .error .badMode := by decide

theorem small_ready (transport : Transport) : (small transport).Ready := by
  cases transport <;> exact ⟨rfl, rfl, rfl⟩

theorem small_accepts (transport : Transport) (n : Nat) (hn : n ≤ 300) : (small transport).BusAccepts n := by
  intro k hk
  have h : (small transport).busIn[k]? = some ⟨0, 0⟩ := List.getElem?_replicate_of_lt (by omega)
  rw [State.answerAt, h]

/-- What an operation that is admitted answers. -/
theorem completes {i : Instr} {s : State} (h : s.Ready) (hc : bufferCheck s.cfg i = none) :
    ∃ t, exec i s = .next t := ⟨_, exec_ready h hc⟩

/-- From a test of the end of an operation, the state it ends in. -/
theorem ended {r : Result} {p : State → Bool} (h : ends r p = true) : ∃ t, r = .next t ∧ p t = true := by
  cases r with
  | next t => exact ⟨t, rfl, h⟩
  | fault _ => cases h
  | refused _ => cases h

/-- The source bitmap of the witnesses, as long as it must be. -/
def bitmap : BufRef := ⟨0, 192⟩

/-- The frame buffer of the witnesses: it begins where the bitmap ends. -/
def frame : BufRef := ⟨192, 192⟩

theorem small_load_completes (transport : Transport) :
    ∃ t, exec (.loadXbm (some bitmap) (some frame)) (onePixel transport) = .next t := by
  cases transport <;> exact completes ⟨rfl, rfl, rfl⟩ (by decide)

/-! ### Encodings -/

theorem witness_ReservedSelectorsRefused_decoded :
    decodeRequest (.withA 0 0xFF) = .ok (.rawCmd 0xFF) ∧ decodeRequest (.withA 20 0x01) = .ok (.setWholeOn 1) := by
  decide

theorem witness_ReservedSelectorsRefused_reserved (sel : BitVec 5) (h : sel = 21 ∨ sel = 31) :
    ∃ (s : State) (r : Request) (rest : List HostEvent),
      s.pos = .idle ∧ (s.port = .request r :: rest ∨ s.port = .start r :: rest) ∧ 21 ≤ r.sel.toNat := by
  refine ⟨{ State.reset with port := [.request (.plain sel)] }, .plain sel, [], rfl, .inl rfl, ?_⟩
  rcases h with rfl | rfl <;> decide

theorem witness_CommandStreamRoundTrip :
    ((Instr.setStartLine 0x3F).isMacro = false ∧ (Instr.setStartLine 0x3F).wellFormed = true ∧
      ∀ v, Instr.setStartLine 0x3F = .rawCmd v → findRow v = none) ∧
    ((Instr.rawCmd 0xE3).isMacro = false ∧ (Instr.rawCmd 0xE3).wellFormed = true ∧
      ∀ v, Instr.rawCmd 0xE3 = .rawCmd v → findRow v = none) := by
  refine ⟨⟨rfl, rfl, fun v h => by cases h⟩, rfl, rfl, fun v h => ?_⟩
  cases h
  rfl

theorem witness_FirstByteIdentifiesSetting :
    (Instr.setContrast 0x00).isMacro = false ∧ (Instr.setContrast 0xFF).isMacro = false ∧
    (∀ v, Instr.setContrast 0x00 ≠ .rawCmd v) ∧ (∀ v, Instr.setContrast 0xFF ≠ .rawCmd v) ∧
    (encode paramsAtReset descriptorAtReset (.setContrast 0x00)).head? =
      (encode paramsAtReset descriptorAtReset (.setContrast 0xFF)).head? :=
  ⟨rfl, rfl, nofun, nofun, rfl⟩

/-- For MacroStreamsReadAsExpansions, LegalGeometryQuantities and ConverterStaysInBounds: all six geometries. -/
theorem witness_legalGeometry :
    [(96, 16), (96, 32), (96, 64), (128, 16), (128, 32), (128, 64)].all (fun g =>
      legalGeometry { descriptorAtReset with width := g.1, height := g.2 }) = true := by decide

/-- For ConverterStaysInBounds: the last page, column and bit of the smallest panel. -/
theorem witness_ConverterStaysInBounds : 1 < pages (small .i2c).cfg ∧ 95 < (small .i2c).cfg.width ∧ 7 < 8 := by
  decide

/-! ### The Transport Encoder -/

/-- For TxSendI2cOneTransaction, TxSendSpi4Frame and UnsupportedTransportSendsNothing. -/
theorem witness_transports : (small .i2c).cfg.transport = .i2c ∧ (small .spi4).cfg.transport = .spi4 ∧
    (small .spi3).cfg.transport = .spi3 := by decide

/-- For the second clause of UnsupportedTransportSendsNothing. -/
theorem witness_UnsupportedTransportSendsNothing :
    (small .spi3).cfg.transport = .spi3 ∧ ∃ t, exec .init (small .spi3) = .next t :=
  ⟨rfl, completes (small_ready _) rfl⟩

/-- For TxSendStatusLaw and CmdSeqGroupings. -/
theorem witness_errUnsupported : State.reset.params.errUnsupported ≠ 0 := by decide

/-! ### Results and completion -/

/-- For every statement that needs only Ready: under each transport, at the smallest and the largest panel. -/
theorem witness_Ready : (small .i2c).Ready ∧ (small .spi4).Ready ∧ (small .spi3).Ready ∧ State.reset.Ready :=
  ⟨small_ready _, small_ready _, small_ready _, rfl, rfl, rfl⟩

/-- For LoadFbSendsWindowsAndData: a buffer of exactly FB_SIZE bytes. -/
theorem witness_LoadFbSendsWindowsAndData : (small .i2c).Ready ∧ FbAdmitted (small .i2c).cfg frame :=
  ⟨small_ready _, by unfold FbAdmitted; decide⟩

/-- For LoadXbmConvertsAndSends: buffers of exactly the needed sizes, side by side. -/
theorem witness_LoadXbmConvertsAndSends : (onePixel .spi4).Ready ∧ Memory.wf (onePixel .spi4).mem ∧
    XbmAdmitted (onePixel .spi4).cfg bitmap frame :=
  ⟨⟨rfl, rfl, rfl⟩, by decide, by unfold XbmAdmitted; decide⟩

theorem witness_OperationsSucceedOnHealthyBus :
    (small .spi4).Ready ∧ bufferCheck (small .spi4).cfg (.loadXbm (some bitmap) (some frame)) = none ∧
    (small .spi4).cfg.transport ≠ .spi3 ∧
    (small .spi4).BusAccepts ((encode (small .spi4).params (small .spi4).cfg
      (.loadXbm (some bitmap) (some frame))).length + fbSize (small .spi4).cfg) :=
  ⟨small_ready _, by decide, by decide, small_accepts _ _ (by decide)⟩

/-- For AdmittedOperationsEnd: the null buffer and the whole one. -/
theorem witness_AdmittedOperationsEnd : (small .i2c).Ready ∧ bufferCheck (small .i2c).cfg (.loadFb none) = none ∧
    bufferCheck (small .i2c).cfg (.loadFb (some frame)) = none :=
  ⟨small_ready _, by decide, by decide⟩

/-! ### Failures -/

/-- For the first clause of FirstFailingWriteEndsOperation: the second write of SET_CONTRAST fails with 6. -/
theorem witness_FirstFailingWriteEndsOperation_fails :
    ∃ s t, s.cfg.transport ≠ .spi3 ∧ exec (.setContrast 0x10) s = .next t ∧ s.BusFailsAt 1 6 ∧
      s.busCount + 1 < t.busCount := by
  have h : ends (exec (.setContrast 0x10) (panel .i2c 128 64 [⟨0, 0⟩, ⟨6, 0⟩])) (fun t => 1 < t.busCount) = true := by
    decide
  obtain ⟨t, ht, hb⟩ := ended h
  refine ⟨_, t, by decide, ht, ⟨?_, rfl, by decide⟩, ?_⟩
  · intro k hk
    obtain rfl : k = 0 := by omega
    rfl
  · exact of_decide_eq_true hb

/-- For its second clause, and for the statements about an operation that succeeds. -/
theorem witness_FirstFailingWriteEndsOperation_succeeds :
    ∃ s t, s.cfg.transport ≠ .spi3 ∧ exec (.setContrast 0x10) s = .next t ∧ s.BusAccepts (t.busCount - s.busCount) := by
  have h : ends (exec (.setContrast 0x10) (small .spi4)) (fun t => t.busCount = 2) = true := by decide
  obtain ⟨t, ht, hb⟩ := ended h
  refine ⟨_, t, by decide, ht, ?_⟩
  rw [of_decide_eq_true hb]
  exact small_accepts _ _ (by decide)

theorem witness_ChipSelectReleasedOnEveryExit :
    (panel .spi4 128 64 [⟨-1, 0⟩]).cfg.transport = .spi4 ∧
    ∃ t, exec (.displayOn 1) (panel .spi4 128 64 [⟨-1, 0⟩]) = .next t :=
  ⟨rfl, completes ⟨rfl, rfl, rfl⟩ rfl⟩

/-- For NothingCarriesBetweenOperations and the statements whose one hypothesis is that an operation completes. -/
theorem witness_NothingCarriesBetweenOperations : ∃ t, exec (.setMuxRatio 0x3F) (small .i2c) = .next t :=
  completes (small_ready _) rfl

/-! ### Frames -/

theorem witness_NonConvertingFrame :
    (∀ xbm fb, Instr.loadFb (some frame) ≠ .loadXbm xbm fb) ∧
    (∃ t, exec (.loadFb (some frame)) (small .i2c) = .next t) ∧ (small .i2c).cfg.transport ≠ .spi4 :=
  ⟨nofun, completes (small_ready _) (by decide), by decide⟩

/-- For LoadXbmFrame, LoadXbmHandsOffToLoadFb and, under 3-wire SPI, ConversionSurvivesFailedTransfer. -/
theorem witness_LoadXbmFrame :
    (∃ t, exec (.loadXbm (some bitmap) (some frame)) (onePixel .i2c) = .next t) ∧
    (∃ t, exec (.loadXbm (some bitmap) (some frame)) (onePixel .spi3) = .next t) ∧
    Memory.wf (onePixel .spi3).mem ∧ (onePixel .spi3).cfg.transport = .spi3 :=
  ⟨small_load_completes _, small_load_completes _, by decide, rfl⟩

theorem witness_DescriptorIsNeverWritten :
    (∃ t, step { small .i2c with port := [.request (.plain 1)] } = .next t) ∧
    (∃ t, step { small .i2c with port := [.reset] } = .next t) ∧
    ∀ d rest, [HostEvent.request (.plain 1)] ≠ .configure d :: rest ∧ [HostEvent.reset] ≠ .configure d :: rest :=
  ⟨completes (i := .init) (s := { small .i2c with port := [], req := .plain 1 }) ⟨rfl, rfl, rfl⟩ rfl, ⟨_, rfl⟩,
    fun _ _ => ⟨nofun, nofun⟩⟩

/-- For LoadFbReadsOnlyItsBuffer: a memory that differs just below and just above the buffer. -/
theorem witness_LoadFbReadsOnlyItsBuffer :
    (∃ t, exec (.loadFb (some frame)) (small .i2c) = .next t) ∧
    ∀ i, i < fbSize (small .i2c).cfg →
      Memory.read [(191, 0x01), (384, 0x01)] (frame.base + i) = Memory.read (small .i2c).mem (frame.base + i) := by
  refine ⟨completes (small_ready _) (by decide), fun i hi => ?_⟩
  have hi : i < 192 := hi
  have h1 : ¬ 191 = 192 + i := by omega
  have h2 : ¬ 384 = 192 + i := by omega
  simp [Memory.read, frame, small, panel, State.reset, h1, h2]

/-! ### The transfer -/

theorem witness_NullBufferEqualsZeroBuffer : (small .spi4).Ready ∧ FbAdmitted (small .spi4).cfg frame ∧
    ∀ i, i < fbSize (small .spi4).cfg → Memory.read (small .spi4).mem (frame.base + i) = 0x00 :=
  ⟨small_ready _, by unfold FbAdmitted; decide, fun _ _ => rfl⟩

/-- For ChunkingTransparent and LoadFbWriteCount: chunks of 16 bytes, and one chunk for the whole frame. -/
theorem witness_ChunkingTransparent :
    ∃ t u, exec (.loadFb none) (small .i2c) = .next t ∧
      exec (.loadFb none) { small .i2c with
        params := { (small .i2c).params with maxChunkI2c := 1024, maxChunkSpi := 1 } } = .next u ∧
      t.status = some 0 ∧ u.status = some 0 := by
  have h : ends (exec (.loadFb none) (small .i2c)) (fun t => t.status = some 0) = true := by decide +kernel
  have k : ends (exec (.loadFb none) { small .i2c with
      params := { (small .i2c).params with maxChunkI2c := 1024, maxChunkSpi := 1 } })
      (fun t => t.status = some 0) = true := by decide +kernel
  obtain ⟨t, ht, h⟩ := ended h
  obtain ⟨u, hu, k⟩ := ended k
  exact ⟨t, u, ht, hu, of_decide_eq_true h, of_decide_eq_true k⟩

/-- For GroupingAndTransportTransparent, InitWriteCount and InitSettlesTarget: PerByte over 4-wire SPI, and PerCommand
over I2C. -/
theorem witness_GroupingAndTransportTransparent :
    ∃ t u, exec .init (small .spi4) = .next t ∧
      exec .init { small .spi4 with
        params := { (small .spi4).params with cmdGrouping := .perCommand },
        cfg := { (small .spi4).cfg with transport := .i2c } } = .next u ∧
      t.status = some 0 ∧ u.status = some 0 := by
  have h : ends (exec .init (small .spi4)) (fun t => t.status = some 0) = true := by decide +kernel
  have k : ends (exec .init { small .spi4 with
      params := { (small .spi4).params with cmdGrouping := .perCommand },
      cfg := { (small .spi4).cfg with transport := .i2c } })
      (fun t => t.status = some 0) = true := by decide +kernel
  obtain ⟨t, ht, h⟩ := ended h
  obtain ⟨u, hu, k⟩ := ended k
  exact ⟨t, u, ht, hu, of_decide_eq_true h, of_decide_eq_true k⟩

theorem witness_LoadFbWriteCount :
    ∃ t, exec (.loadFb (some frame)) (onePixel .i2c) = .next t ∧ t.status = some 0 := by
  have h : ends (exec (.loadFb (some frame)) (onePixel .i2c)) (fun t => t.status = some 0) = true := by decide +kernel
  obtain ⟨t, ht, h⟩ := ended h
  exact ⟨t, ht, of_decide_eq_true h⟩

/-! ### The converter -/

/-- For ConversionClosedForm and ConversionKeepsPixels: the first and the last bit of the last byte, and of the last
block. -/
theorem witness_ConversionClosedForm :
    Memory.wf (onePixel .i2c).mem ∧
    (∃ t, exec (.loadXbm (some bitmap) (some frame)) (onePixel .i2c) = .next t) ∧
    191 < (onePixel .i2c).cfg.width * (onePixel .i2c).cfg.height / 8 ∧
    1 < (onePixel .i2c).cfg.height / 8 ∧ 11 < ((onePixel .i2c).cfg.width + 7) / 8 ∧
    15 < (onePixel .i2c).cfg.height ∧ 95 < (onePixel .i2c).cfg.width :=
  ⟨by decide, small_load_completes _, by decide, by decide, by decide, by decide, by decide⟩

/-- V-XBM-1: 96 by 16, row 9, column 95. -/
theorem witness_SinglePixelImage :
    Memory.wf (onePixel .i2c).mem ∧
    (∃ t, exec (.loadXbm (some bitmap) (some frame)) (onePixel .i2c) = .next t) ∧
    9 < (onePixel .i2c).cfg.height ∧ 95 < (onePixel .i2c).cfg.width ∧
    ∀ i, i < xbmSize (onePixel .i2c).cfg → Memory.read (onePixel .i2c).mem (bitmap.base + i) =
      if i = 9 * xbmStride (onePixel .i2c).cfg + 95 / 8 then 1#8 <<< (95 % 8) else 0 :=
  ⟨by decide, small_load_completes _, by decide, by decide, by decide +kernel⟩

/-- A small panel with one byte of the bitmap. -/
def withByte (v : Byte) : State := { small .i2c with mem := [(0, v)] }

theorem witness_ConversionLinearOverOr :
    Memory.wf (withByte 0x0F).mem ∧ Memory.wf (withByte 0x11).mem ∧ Memory.wf (withByte 0x1F).mem ∧
    (withByte 0x11).cfg = (withByte 0x0F).cfg ∧ (withByte 0x1F).cfg = (withByte 0x0F).cfg ∧
    (∀ v, ∃ t, exec (.loadXbm (some bitmap) (some frame)) (withByte v) = .next t) ∧
    ∀ i, i < xbmSize (withByte 0x0F).cfg → Memory.read (withByte 0x1F).mem (bitmap.base + i) =
      Memory.read (withByte 0x0F).mem (bitmap.base + i) ||| Memory.read (withByte 0x11).mem (bitmap.base + i) :=
  ⟨by decide, by decide, by decide, rfl, rfl, fun _ => completes ⟨rfl, rfl, rfl⟩
    (show checkXbm (small .i2c).cfg (some bitmap) (some frame) = none by decide), by decide +kernel⟩

/-! ### Refusals -/

/-- A panel inside LOAD_FB, with the event `e` presented. -/
def busyWith (e : HostEvent) : State := { small .i2c with pos := .stream 16, port := [e] }

/-- Every kind of event that a busy block refuses. -/
theorem witness_BusyBlockRefuses (e : HostEvent)
    (h : e = .request (.plain 1) ∨ e = .start (.plain 1) ∨ e = .configure descriptorAtReset ∨ e = .store 0 0x01) :
    (busyWith e).pos ≠ .idle ∧ (busyWith e).port = [e] ∧ e ≠ .reset ∧ e ≠ .pass := by
  rcases h with rfl | rfl | rfl | rfl <;> exact ⟨nofun, rfl, nofun, nofun⟩

/-- A panel one column too narrow, one of a height between two legal ones, and one of no rows. -/
theorem witness_IllegalInstanceRefused_geometry (s : State)
    (h : s = panel .i2c 127 64 [] ∨ s = panel .i2c 128 48 [] ∨ s = panel .i2c 96 0 []) :
    s.pos = .idle ∧ 1 ≤ s.params.maxChunkI2c ∧ 1 ≤ s.params.maxChunkSpi ∧ s.params.errUnsupported ≠ 0 ∧
    ¬ ((s.cfg.width = 96 ∨ s.cfg.width = 128) ∧ (s.cfg.height = 16 ∨ s.cfg.height = 32 ∨ s.cfg.height = 64)) := by
  rcases h with rfl | rfl | rfl <;> decide

/-- A panel with the parameters `p`. -/
def withParams (p : Params) : State := { small .i2c with params := p }

/-- Each parameter with a domain, just outside it. -/
theorem witness_IllegalInstanceRefused_parameters (p : Params)
    (h : p = { paramsAtReset with maxChunkI2c := 0 } ∨ p = { paramsAtReset with maxChunkSpi := 0 } ∨
      p = { paramsAtReset with errUnsupported := 0 }) :
    (withParams p).pos = .idle ∧ ((withParams p).params.maxChunkI2c < 1 ∨ (withParams p).params.maxChunkSpi < 1 ∨
      (withParams p).params.errUnsupported = 0) := by
  rcases h with rfl | rfl | rfl <;> decide

/-- A buffer one byte too short, a bitmap one byte too short, and a frame buffer on the bitmap's last byte. -/
theorem witness_BadBuffersRefused :
    (small .i2c).Ready ∧ 191 < fbSize (small .i2c).cfg ∧ 191 < xbmSize (small .i2c).cfg ∧
    xbmSize (small .i2c).cfg ≤ bitmap.len ∧ fbSize (small .i2c).cfg ≤ 192 ∧
    bitmap.base < 191 + 192 ∧ 191 < bitmap.base + bitmap.len :=
  ⟨small_ready _, by decide, by decide, by decide, by decide, by decide, by decide⟩

/-! ### The step, reset and the host -/

/-- For the last clause of BadBuffersRefused: a LOAD_FB that is not marked null and names no buffer. -/
theorem witness_BadBuffersRefused_missing :
    ∃ (s : State) (r : Request) (rest : List HostEvent), s.pos = .idle ∧
      (s.port = .request r :: rest ∨ s.port = .start r :: rest) ∧ r.sel = 2 ∧ r.fbNull = false ∧ r.fb = none :=
  ⟨{ State.reset with port := [.start (.plain 2)] }, .plain 2, [], rfl, .inr rfl, rfl, rfl, rfl⟩

/-- For StepRunsPresentedRequest. -/
theorem witness_StepRunsPresentedRequest :
    ∃ (s : State) (r : Request) (rest : List HostEvent) (i : Instr), s.pos = .idle ∧
      s.port = .request r :: rest ∧ decodeRequest r = .ok i :=
  ⟨{ State.reset with port := [.request (.withAB 16 0 127), .reset] }, .withAB 16 0 127, [.reset],
    .setColWindow 0 127, rfl, rfl, by decide⟩

theorem witness_FetchedWordRuns : decodeTableWord 8 0xAF = some (.displayOn 1) ∧
    decodeTableWord 64 0x2100_5F22_0001_2000 = some (.loadFb none) := by decide

/-- For ResetEventAbandonsOperation: between two chunks of a transfer. -/
theorem witness_ResetEventAbandonsOperation :
    ∃ (s : State) (rest : List HostEvent), s.pos ≠ .idle ∧ s.port = .reset :: rest :=
  ⟨{ small .spi4 with pos := .stream 16, port := [.reset] }, [], by decide, rfl⟩

theorem witness_IdleBlockWaits : State.reset.pos = .idle ∧ State.reset.port = [] ∧
    ({ State.reset with port := [.pass] } : State).port = [.pass] := ⟨rfl, rfl, rfl⟩

/-- A 96 by 16 panel over 4-wire SPI to which LOAD_FB of no buffer is presented, to start. -/
def starting (port : List HostEvent) : State :=
  { small .spi4 with port := .start (encodeRequest (.loadFb none)) :: port }

/-- For the first clause of StepInsideOperationIsTick, and for ExecIsSequencerRunToIdle. -/
theorem witness_StepInsideOperationIsTick_starts : (starting []).pos = .idle ∧
    decodeRequest (encodeRequest (.loadFb none)) = .ok (.loadFb none) ∧
    (instanceCheck (starting [])).or (bufferCheck (starting []).cfg (.loadFb none)) = none ∧
    ∃ t, exec (.loadFb none) { starting [] with port := [], req := encodeRequest (.loadFb none) } = .next t :=
  ⟨rfl, by decide, by decide, completes ⟨rfl, rfl, rfl⟩ rfl⟩

/-- For its second clause. -/
theorem witness_StepInsideOperationIsTick_moves : (busyWith .pass).pos ≠ .idle ∧ (busyWith .pass).port = [.pass] ∧
    ({ busyWith .pass with port := [] } : State).port = [] := ⟨nofun, rfl, rfl⟩

theorem witness_ResetReachesInsideFrame :
    (starting [.pass, .pass, .reset]).Ready ∧ (starting [.pass, .pass, .reset]).cfg.transport = .spi4 ∧
    decodeRequest (encodeRequest (.loadFb none)) = .ok (.loadFb none) ∧
    bufferCheck (starting [.pass, .pass, .reset]).cfg (.loadFb none) = none ∧
    ∀ xbm fb, Instr.loadFb none ≠ .loadXbm xbm fb :=
  ⟨⟨rfl, rfl, rfl⟩, rfl, by decide, rfl, nofun⟩

theorem witness_HostActsBetweenOperations :
    ∃ s t : State, s.pos = .idle ∧ s.port = [.configure descriptorAtReset] ∧
      t.pos = .idle ∧ t.port = [.store 5 0x00] ∧ Memory.wf t.mem :=
  ⟨{ State.reset with port := [.configure descriptorAtReset] },
    { State.reset with port := [.store 5 0x00], mem := [(5, 0x01)] }, rfl, rfl, rfl, rfl, by decide⟩

/-! ### Invariants and the sequencer -/

/-- A panel inside LOAD_XBM: at the last bit of the last byte of the conversion. -/
def converting : State :=
  { onePixel .spi4 with pos := .xbm 1 95 7, req := encodeRequest (.loadXbm (some bitmap) (some frame)) }

/-- A panel inside the chip-select frame of LOAD_FB's first command byte. -/
def framing : State :=
  { small .spi4 with
    pos := .frame (.win .col 0) .selected, cs := .asserted, dc := .low, req := encodeRequest (.loadFb none) }

/-- For StepKeepsInvariant and InvariantRulesOutFaults: idle with a request, inside the conversion, and inside a
chip-select frame. -/
theorem witness_StepKeepsInvariant :
    (State.Inv { small .i2c with port := [.request (.plain 1)] } ∧
      ∃ t, step { small .i2c with port := [.request (.plain 1)] } = .next t) ∧
    (converting.Inv ∧ ∃ t, step converting = .next t) ∧ framing.Inv ∧ ∃ t, step framing = .next t := by
  refine ⟨⟨⟨by decide, by decide, .inl rfl⟩, witness_DescriptorIsNeverWritten.1⟩,
    ⟨⟨by decide, by decide, .inr ?_⟩, ?_⟩, ⟨by decide, by decide, .inr ?_⟩, ?_⟩
  · exact ⟨_, rfl, by decide, .inr ⟨bitmap, frame, 1, 95, 7, rfl, rfl, by decide, by decide, by decide⟩⟩
  · have h : ends (step converting) (fun t => t.pos = .win .col 0) = true := by decide +kernel
    obtain ⟨t, ht, -⟩ := ended h
    exact ⟨t, ht⟩
  · exact ⟨.loadFb none, rfl, by decide, .inl ⟨_, List.mem_cons_self, .inr ⟨rfl, .selected, rfl⟩⟩⟩
  · have h : ends (step framing) (fun t => t.pos = .frame (.win .col 0) (.written 0)) = true := by decide +kernel
    obtain ⟨t, ht, -⟩ := ended h
    exact ⟨t, ht⟩

/-- Two ways to write the same bytes. -/
theorem witness_CanonicalMemoriesAreEqual :
    Memory.wf (Memory.write (Memory.write [] 7 0x01) 5 0x02) ∧ Memory.wf [(5, 0x02), (7, 0x01)] ∧
    ∀ a, Memory.read (Memory.write (Memory.write [] 7 0x01) 5 0x02) a = Memory.read [(5, 0x02), (7, 0x01)] a :=
  ⟨by decide, by decide, fun _ => rfl⟩

/-! ### The wire and the reference sink -/

theorem witness_WireTagsReadBack :
    ∃ t, exec (.loadFb none) (small .spi4) = .next t ∧ t.status = some 0 ∧
      (small .spi4).cfg.csPin ≠ (small .spi4).cfg.dcPin := by
  have h : ends (exec (.loadFb none) (small .spi4)) (fun t => t.status = some 0) = true := by decide +kernel
  obtain ⟨t, ht, h⟩ := ended h
  exact ⟨t, ht, of_decide_eq_true h, by decide⟩

/-- For LoadFbFillsDisplayRam and InitSettlesTarget: a sink in Page mode, and the last cell of the panel. -/
theorem witness_LoadFbFillsDisplayRam :
    (∃ t, exec (.loadFb (some frame)) (onePixel .i2c) = .next t ∧ t.status = some 0) ∧
    (∃ t, exec .init (small .spi4) = .next t ∧ t.status = some 0) ∧
    Memory.wf anySink.ram ∧ anySink.pending = [] ∧ 1 < pages (onePixel .i2c).cfg ∧ 95 < (onePixel .i2c).cfg.width := by
  obtain ⟨t, _, h, _, h', _⟩ := witness_GroupingAndTransportTransparent
  exact ⟨witness_LoadFbWriteCount, ⟨t, h, h'⟩, by decide, rfl, by decide, by decide⟩

end Sys2Proof.Tests
end

section
/-! The scope family (00_scope.md): the derived quantities of a legal geometry (R8), the refusal of illegal parameters
and geometries (R7, R9), and the tagged bytes an operation delivers (R12). The last rests on one fact: an operation is
a list of command sequences and a run of data bytes, and a run that succeeds delivers them all, however they are
grouped. -/

namespace Sys2Proof.Machine

/-! ## The geometry -/

/-- Settles O34, from the facts that width and height of a legal geometry are whole numbers of bytes and pages. -/
theorem legalGeometryQuantities : Obligations.LegalGeometryQuantities := by
  intro d h
  have hpages := pages_mul h
  have hstride := xbmStride_eq h
  have hfb := fbSize_eq h
  refine ⟨?_, hpages, hstride, rfl, ?_, hfb⟩
  · calc fbSize d * 8 = d.width * (pages d * 8) := by rw [hfb]; ring
      _ = d.width * d.height := by rw [hpages]
  · calc xbmSize d = xbmStride d * (pages d * 8) := by rw [xbmSize, hpages]
      _ = pages d * (xbmStride d * 8) := by ring
      _ = fbSize d := by rw [hstride, hfb]

/-! ## Illegal parameters and geometries -/

theorem legalParams_iff (p : Params) :
    legalParams p = true ↔ 1 ≤ p.maxChunkI2c ∧ 1 ≤ p.maxChunkSpi ∧ p.errUnsupported ≠ 0 := by
  simp [legalParams, and_assoc]

theorem legalGeometry_iff (d : Descriptor) :
    legalGeometry d = true ↔
      (d.width = 96 ∨ d.width = 128) ∧ (d.height = 16 ∨ d.height = 32 ∨ d.height = 64) := by
  simp [legalGeometry, or_assoc]

/-- Every operation is launched with the check of its own buffers. -/
theorem exec_eq_launch (i : Instr) (s : State) :
    ∃ operation, exec i s = launch (bufferCheck s.cfg i) operation s := by
  cases i <;> exact ⟨_, rfl⟩

/-- An illegal parameter or geometry refuses every operation of an idle block, whatever its buffers are. -/
theorem exec_refused_of_instanceCheck {s : State} {r : Refusal} (i : Instr) (hpos : s.pos = .idle)
    (hr : instanceCheck s = some r) : exec i s = .refused r := by
  obtain ⟨operation, h⟩ := exec_eq_launch i s
  simp [h, launch, hpos, hr]

/-- Settles O43: the parameters are checked first and then the geometry. -/
theorem illegalInstanceRefused : Obligations.IllegalInstanceRefused := by
  refine ⟨fun i s hpos hbad => ?_, fun i s hpos hi2c hspi herr hbad => ?_⟩
  · have hp : ¬ legalParams s.params = true := by
      intro hl
      obtain ⟨hi2c, hspi, herr⟩ := (legalParams_iff _).mp hl
      obtain hi2c' | hspi' | herr' := hbad
      · omega
      · omega
      · exact herr herr'
    exact exec_refused_of_instanceCheck i hpos (by simp [instanceCheck, hp])
  · have hp : legalParams s.params = true := (legalParams_iff _).mpr ⟨hi2c, hspi, herr⟩
    have hg : ¬ legalGeometry s.cfg = true := mt (legalGeometry_iff _).mp hbad
    exact exec_refused_of_instanceCheck i hpos (by simp [instanceCheck, hp, hg])

/-! ## What a run of transfers delivers -/

/-- The driver accepts a run of writes when it accepts the first one and, after it, the others. -/
theorem State.busAccepts_succ (u : Tag × List Byte) (s : State) (n : Nat) :
    s.BusAccepts (n + 1) ↔ (s.answerAt 0).status = 0 ∧ (afterOne u s).BusAccepts n := by
  have hans : ∀ k, (afterOne u s).answerAt k = s.answerAt (k + 1) := State.answerAt_succ rfl rfl
  simp only [State.BusAccepts, hans]
  exact Nat.forall_lt_succ_left

/-- Under a supported transport a run succeeds exactly when all its bus writes are accepted. -/
theorem runTransfers_status_zero_iff (ts : List Transfer) (s : State) (h : s.cfg.transport ≠ .spi3) :
    (runTransfers ts s).status = some 0 ↔ s.BusAccepts ts.length := by
  induction ts generalizing s with
  | nil => exact ⟨fun _ k hk => absurd hk (Nat.not_lt_zero k), fun _ => rfl⟩
  | cons t ts ih =>
    rw [runTransfers_cons t ts s h, List.length_cons, State.busAccepts_succ (t.tag, t.bytes)]
    split
    · next ha => exact (ih { afterOne (t.tag, t.bytes) s with pos := t.pos } h).trans (and_iff_right ha).symm
    · next ha => simp [ha]

/-- Accepted writes deliver all their bytes, in order and nothing else (00_scope.md R12). -/
theorem runTransfers_stream (ts : List Transfer) (s : State) (h : s.cfg.transport ≠ .spi3)
    (ha : s.BusAccepts ts.length) :
    (runTransfers ts s).stream = s.stream ++ (unitsOf ts).flatMap tagged := by
  induction ts generalizing s with
  | nil => exact (List.append_nil _).symm
  | cons t ts ih =>
    obtain ⟨h0, hrest⟩ := (State.busAccepts_succ (t.tag, t.bytes) s _).mp ha
    rw [runTransfers_cons t ts s h, if_pos h0,
      ih { afterOne (t.tag, t.bytes) s with pos := t.pos } h hrest]
    simp [afterOne, taggedUnder, h0, unitsOf]

/-- However a run ends, the block is idle and the caller's memory is as it was. -/
theorem runTransfers_idle (ts : List Transfer) (s : State) (h : s.cfg.transport ≠ .spi3) :
    (runTransfers ts s).pos = .idle ∧ (runTransfers ts s).mem = s.mem := by
  induction ts generalizing s with
  | nil => exact ⟨rfl, rfl⟩
  | cons t ts ih =>
    rw [runTransfers_cons t ts s h]
    split
    · exact ih { afterOne (t.tag, t.bytes) s with pos := t.pos } h
    · exact ⟨rfl, rfl⟩

/-! ## The command bytes and their encoding -/

/-- The truth rule (30_encoding.md R85) as the encodings carry it: one bit. -/
theorem truthBit_cases (v : Byte) : isTrue v = true ∧ truthBit v = 1#1 ∨ isTrue v = false ∧ truthBit v = 0#1 := by
  unfold isTrue truthBit
  cases v != 0
  · exact .inr ⟨rfl, rfl⟩
  · exact .inl ⟨rfl, rfl⟩

/-- The mask 0x3F keeps the six bits the encodings carry (30_encoding.md R84). -/
theorem mask6_eq (v : Byte) : mask6 v = 0b00#2 ++ lowBits 6 v := by
  revert v
  decide

/-- The mask 0x03 keeps the two bits the encodings carry (30_encoding.md R84). -/
theorem mask2_eq (v : Byte) : mask2 v = 0b000000#6 ++ lowBits 2 v := by
  revert v
  decide

/-- The start line stands below the two opcode bits of SET_START_LINE (30_encoding.md R81). -/
theorem startLine_eq (v : Byte) : 0x40 ||| mask6 v = 0b01#2 ++ lowBits 6 v := by
  revert v
  decide

/-- The command bytes of a setting and of RAW_CMD are the bit patterns of the encoding tables (30_encoding.md R81 to
R85). -/
theorem commandBytes_eq_encode (p : Params) (d : Descriptor) {i : Instr} (h : i.isMacro = false) :
    commandBytes i = encode p d i := by
  cases i with
  | init => cases h
  | loadFb buf => cases h
  | loadXbm xbm fb => cases h
  | displayOn v | setChargePump v | setSegRemap v | setScanDir v | setInversion v | setWholeOn v =>
    obtain ⟨ht, hb⟩ | ⟨ht, hb⟩ := truthBit_cases v <;>
      simp [commandBytes, encode, displayOnBytes, chargePumpBytes, segRemapBytes, scanDirBytes, inversionBytes,
        wholeOnBytes, select, ht, hb]
  | setStartLine start => exact congrArg (fun b => [b]) (startLine_eq start)
  | setOffset v | setMuxRatio v => exact congrArg (fun b => [_, b]) (mask6_eq v)
  | setAddrMode mode => exact congrArg (fun b => [_, b]) (mask2_eq mode)
  | _ => rfl

/-! ## The bytes an operation delivers -/

/-- Both groupings deliver the bytes of a command sequence (40_transport_encoder.md R106). -/
theorem tagged_commandUnits (g : CmdGrouping) (bytes : List Byte) :
    (commandUnits g bytes).flatMap tagged = bytes.map fun v => (.cmd, v) := by
  cases g with
  | perByte => induction bytes with
    | nil => rfl
    | cons v vs ih => exact congrArg _ ih
  | perCommand => exact List.append_nil _

/-- Several command sequences deliver their bytes one after the other. -/
theorem tagged_flatMap_commandUnits (g : CmdGrouping) (commands : List (List Byte)) :
    (commands.flatMap (commandUnits g)).flatMap tagged = commands.flatten.map fun v => (.cmd, v) := by
  rw [List.flatMap_assoc, List.map_flatten]
  simp only [tagged_commandUnits]
  rfl

/-- The chunks of the data phase deliver the data (43_frame_buffer_transfer.md R164). -/
theorem tagged_dataUnits {k : Nat} (hk : 1 ≤ k) (bytes : List Byte) :
    (dataUnits k bytes).flatMap tagged = bytes.map fun v => (.data, v) := by
  calc (dataUnits k bytes).flatMap tagged
      = (pieces k bytes.length bytes).flatten.map fun v => (.data, v) := by
        rw [dataUnits, List.flatMap_map, List.map_flatten, List.flatMap_def]
        rfl
    _ = bytes.map fun v => (.data, v) := by rw [pieces_flatten k hk _ _ le_rfl]

/-- INIT delivers its encoding. -/
theorem tagged_initUnits (p : Params) {d : Descriptor} (hg : legalGeometry d = true) :
    (initUnits p d.height).flatMap tagged = (encode p d .init).map fun v => (.cmd, v) := by
  have hmux : BitVec.ofNat 8 (d.height - 1) &&& 0x3F = 0b00#2 ++ BitVec.ofNat 6 (d.height - 1) := by
    obtain ⟨_, hh | hh | hh⟩ := legalGeometry_cases hg <;> rw [hh] <;> rfl
  have hpump : (if p.chargePumpInit then 0x14 else 0x10 : Byte) =
      0b00010#5 ++ BitVec.ofBool p.chargePumpInit ++ 0b00#2 := by
    cases p.chargePumpInit <;> rfl
  rw [initUnits, tagged_flatMap_commandUnits, hmux, hpump]
  rfl

/-- The window commands of LOAD_FB and LOAD_XBM deliver their encoding. -/
theorem tagged_windowUnits (p : Params) {d : Descriptor} (hg : legalGeometry d = true) :
    (windowUnits p d).flatMap tagged = (encode.encodeWindows d).map fun v => (.cmd, v) := by
  have hcol : BitVec.ofNat 8 (d.width - 1) = 0b0#1 ++ BitVec.ofNat 7 (d.width - 1) := by
    obtain ⟨hw | hw, _⟩ := legalGeometry_cases hg <;> rw [hw] <;> rfl
  have hpage : BitVec.ofNat 8 (d.height / 8 - 1) = 0b00000#5 ++ BitVec.ofNat 3 (d.height / 8 - 1) := by
    obtain ⟨_, hh | hh | hh⟩ := legalGeometry_cases hg <;> rw [hh] <;> rfl
  rw [windowUnits, tagged_flatMap_commandUnits, hcol, hpage]
  rfl

/-- A transfer delivers the window commands and then its data. -/
theorem tagged_loadUnits {p : Params} {d : Descriptor} (hp : legalParams p = true) (hg : legalGeometry d = true)
    (bytes : List Byte) :
    (loadUnits p d bytes).flatMap tagged =
      (encode.encodeWindows d).map (fun v => (.cmd, v)) ++ bytes.map fun v => (.data, v) := by
  obtain ⟨hi2c, hspi, _⟩ := (legalParams_iff p).mp hp
  rw [loadUnits, List.flatMap_append, tagged_windowUnits p hg, tagged_dataUnits]
  split
  · exact hi2c
  · exact hspi

/-- The data bytes an operation sends after its commands: none but for the two loads. -/
def dataOf (i : Instr) (s : State) : List Byte :=
  match i with
  | .loadFb buf | .loadXbm _ buf => dataBytes buf s
  | _ => []

/-- Every operation delivers its encoding and then its data (00_scope.md R12, 30_encoding.md R96). -/
theorem tagged_operationUnits (i : Instr) {s : State} (hp : legalParams s.params = true)
    (hg : legalGeometry s.cfg = true) :
    (unitsOf (operationTransfers i s)).flatMap tagged =
      (encode s.params s.cfg i).map (fun v => (.cmd, v)) ++ (dataOf i s).map fun v => (.data, v) := by
  have hload : ∀ buf, (unitsOf (loadFbTransfers buf s)).flatMap tagged =
      (encode.encodeWindows s.cfg).map (fun v => (.cmd, v)) ++ (dataBytes buf s).map fun v => (.data, v) :=
    fun buf => by rw [unitsOf_loadFbTransfers, tagged_loadUnits hp hg]
  cases i with
  | init =>
    rw [operationTransfers, unitsOf_initTransfers s hg, tagged_initUnits s.params hg]
    exact (List.append_nil _).symm
  | loadFb buf => exact hload buf
  | loadXbm xbm fb => exact hload fb
  | _ =>
    rw [operationTransfers, unitsOf_cmdSeq, tagged_commandUnits, commandBytes_eq_encode s.params s.cfg rfl]
    · exact (List.append_nil _).symm
    all_goals nofun

/-! ## How many writes an operation makes -/

/-- A command sequence makes no more bus writes than it has bytes. -/
theorem length_commandUnits_le (g : CmdGrouping) {bytes : List Byte} (h : bytes ≠ []) :
    (commandUnits g bytes).length ≤ bytes.length := by
  cases g with
  | perByte => simp [commandUnits]
  | perCommand => exact List.length_pos_of_ne_nil h

/-- There are never more pieces than the fuel. -/
theorem length_pieces_le (k fuel : Nat) (bytes : List Byte) : (pieces k fuel bytes).length ≤ fuel := by
  induction fuel generalizing bytes with
  | zero => exact le_rfl
  | succ fuel ih =>
    rw [pieces]
    split
    · exact Nat.zero_le _
    · exact Nat.succ_le_succ (ih _)

/-- INIT makes at most 25 bus writes, one for each of its bytes. -/
theorem length_initUnits_le (p : Params) (height : Nat) : (initUnits p height).length ≤ 25 := by
  unfold initUnits
  cases p.cmdGrouping <;> simp [commandUnits]

/-- A transfer makes at most eight command writes, and no more data writes than it has bytes. -/
theorem length_loadUnits_le (p : Params) (d : Descriptor) (bytes : List Byte) :
    (loadUnits p d bytes).length ≤ 8 + bytes.length := by
  have hwin : (windowUnits p d).length ≤ 8 := by
    unfold windowUnits
    cases p.cmdGrouping <;> simp [commandUnits]
  rw [loadUnits, List.length_append, dataUnits, List.length_map]
  exact Nat.add_le_add hwin (length_pieces_le _ _ _)

/-- An operation makes no more bus writes than it has command bytes and the frame buffer has data bytes. -/
theorem length_operationTransfers_le (i : Instr) {s : State} (hg : legalGeometry s.cfg = true) :
    (operationTransfers i s).length ≤ (encode s.params s.cfg i).length + fbSize s.cfg := by
  have hunits : ∀ ts, (unitsOf ts).length = ts.length := fun ts => List.length_map _
  have hload : ∀ buf, (loadFbTransfers buf s).length ≤ 8 + fbSize s.cfg := fun buf => by
    have hdata : (dataBytes buf s).length = fbSize s.cfg := by simp [dataBytes]
    rw [← hunits, unitsOf_loadFbTransfers, ← hdata]
    exact length_loadUnits_le _ _ _
  cases i with
  | init =>
    rw [operationTransfers, ← hunits, unitsOf_initTransfers s hg]
    exact (length_initUnits_le _ _).trans (Nat.le_add_right _ _)
  | loadFb buf => exact hload buf
  | loadXbm xbm fb => exact hload fb
  | _ =>
    rw [operationTransfers, ← hunits, unitsOf_cmdSeq, ← commandBytes_eq_encode s.params s.cfg rfl]
    · exact (length_commandUnits_le _ (List.cons_ne_nil _ _)).trans (Nat.le_add_right _ _)
    all_goals nofun

/-! ## The operation as a whole -/

/-- The transfers of an operation begin under legal parameters and a legal geometry where the block was ready. -/
theorem prepared_legal (i : Instr) {s : State} (h : s.Ready) :
    legalParams (prepared i s).params = true ∧ legalGeometry (prepared i s).cfg = true := by
  obtain ⟨_, hp, hg⟩ := h
  rw [(prepared_same i s).params, (prepared_same i s).cfg]
  exact ⟨hp, hg⟩

/-- Preparing leaves the bus driver's answers alone. -/
theorem prepared_accepts (i : Instr) {s : State} {n : Nat} (h : s.BusAccepts n) : (prepared i s).BusAccepts n := by
  have hsame := prepared_same i s
  simpa [State.BusAccepts, State.answerAt, hsame.busIn, hsame.busCount] using h

/-- An operation can only succeed under a supported transport (40_transport_encoder.md R103). -/
theorem operationOf_supported {i : Instr} {s : State} (h : s.Ready) (hst : (operationOf i s).status = some 0) :
    s.cfg.transport ≠ .spi3 := by
  intro hspi
  have hsame := prepared_same i s
  have herr : (prepared i s).params.errUnsupported ≠ 0 := by
    rw [hsame.params]
    exact h.err_ne_zero
  obtain ⟨t, ts, hts⟩ := List.exists_cons_of_ne_nil (operationTransfers_ne_nil i (prepared i s))
  rw [operationOf, hts, runTransfers_unsupported t ts _ (hsame.cfg ▸ hspi) herr] at hst
  exact herr (Option.some.inj hst)

/-- An operation that ends with status 0 has delivered its encoding and then its data, and nothing else
(00_scope.md R12). -/
theorem operationOf_stream {i : Instr} {s : State} (h : s.Ready) (hst : (operationOf i s).status = some 0) :
    (operationOf i s).stream = s.stream ++ (encode s.params s.cfg i).map (fun v => (.cmd, v)) ++
      (dataOf i (prepared i s)).map fun v => (.data, v) := by
  have hsame := prepared_same i s
  obtain ⟨hp, hg⟩ := prepared_legal i h
  have ht : (prepared i s).cfg.transport ≠ .spi3 := by
    rw [hsame.cfg]
    exact operationOf_supported h hst
  have ha := (runTransfers_status_zero_iff _ _ ht).mp hst
  rw [operationOf, runTransfers_stream _ _ ht ha, tagged_operationUnits i hp hg, hsame.stream, hsame.params, hsame.cfg,
    List.append_assoc]

/-- On a bus that accepts as many writes as there are bytes to send, under a supported transport, an operation
succeeds. -/
theorem operationOf_status {i : Instr} {s : State} (h : s.Ready) (ht : s.cfg.transport ≠ .spi3)
    (ha : s.BusAccepts ((encode s.params s.cfg i).length + fbSize s.cfg)) :
    (operationOf i s).status = some 0 := by
  have hsame := prepared_same i s
  have hlen := length_operationTransfers_le i (prepared_legal i h).2
  rw [hsame.params, hsame.cfg] at hlen
  rw [operationOf, runTransfers_status_zero_iff _ _ (hsame.cfg ▸ ht)]
  exact fun k hk => prepared_accepts i ha k (hk.trans_le hlen)

/-- Settles O20: the writes are no more than the bytes, so the driver accepts them all, and all the bytes are
delivered. -/
theorem operationsSucceedOnHealthyBus : Obligations.OperationsSucceedOnHealthyBus := by
  intro i s hr hc ht ha
  have hst := operationOf_status hr ht ha
  have hsame := prepared_same i s
  obtain ⟨hpos, hmem⟩ := runTransfers_idle (operationTransfers i (prepared i s)) (prepared i s) (hsame.cfg ▸ ht)
  refine ⟨operationOf i s, exec_ready hr hc, hst, hpos, ?_⟩
  rw [operationOf_stream hr hst, List.append_cancel_left_eq]
  cases i with
  | loadFb buf =>
    cases buf with
    | none => simp [dataOf, prepared, dataBytes_none]
    | some buf => rfl
  | loadXbm xbm fb =>
    cases fb with
    | none => simp [bufferCheck, checkXbm] at hc
    | some fb =>
      simp only [dataOf, dataBytes_some, hsame.cfg, State.bufferBytes, operationOf, hmem]
  | _ => rfl

/-! ## Grouping and transport -/

/-- The same block with another grouping and another transport. -/
def State.rewired (g : CmdGrouping) (transport : Transport) (s : State) : State :=
  { s with params := { s.params with cmdGrouping := g }, cfg := { s.cfg with transport := transport } }

/-- The conversion looks at neither the grouping nor the transport. -/
theorem convert_rewired (g : CmdGrouping) (transport : Transport) (xbm fb : BufRef) (s : State) :
    convert xbm fb (s.rewired g transport) = (convert xbm fb s).rewired g transport := by
  have hcol : ∀ p s x, convertColumn xbm fb p x (State.rewired g transport s) =
      (convertColumn xbm fb p x s).rewired g transport := fun p s x =>
    congrArg (storeColumn fb p x) (List.foldl_hom (State.rewired g transport) fun _ _ => rfl)
  have hpage : ∀ s p, convertPage xbm fb p (State.rewired g transport s) =
      (convertPage xbm fb p s).rewired g transport := fun s p =>
    List.foldl_hom (State.rewired g transport) (hcol p)
  exact List.foldl_hom (State.rewired g transport) hpage

/-- The data of an operation depends on neither the grouping nor the transport. -/
theorem dataOf_rewired (g : CmdGrouping) (transport : Transport) (i : Instr) (s : State) :
    dataOf i (prepared i (s.rewired g transport)) = dataOf i (prepared i s) := by
  have hdata : ∀ buf s, dataBytes buf (State.rewired g transport s) = dataBytes buf s := fun buf s => by
    cases buf <;> rfl
  cases i with
  | loadFb buf => exact hdata buf s
  | loadXbm xbm fb =>
    rcases xbm with _ | xbm
    · exact hdata fb s
    rcases fb with _ | fb
    · rfl
    · exact (congrArg (dataBytes (some fb)) (convert_rewired g transport xbm fb s)).trans (hdata _ _)
  | _ => rfl

/-- The encoding of an operation depends on neither the grouping nor the transport. -/
theorem encode_rewired (g : CmdGrouping) (transport : Transport) (i : Instr) (s : State) :
    encode (s.rewired g transport).params (s.rewired g transport).cfg i = encode s.params s.cfg i := by
  cases i <;> rfl

/-- Settles O31: both runs deliver the encoding and the data, which depend on neither. -/
theorem groupingAndTransportTransparent : Obligations.GroupingAndTransportTransparent := by
  intro i s t u g transport ht hu hst hsu
  obtain ⟨hready, _, rfl⟩ := exec_next ht
  obtain ⟨hready', _, rfl⟩ := exec_next (s := s.rewired g transport) hu
  rw [operationOf_stream hready hst, operationOf_stream hready' hsu, dataOf_rewired, encode_rewired]
  rfl

end Sys2Proof.Machine
end

section
/-! The state family (10_state.md): an operation run one position at a time is the operation in one step (R22), every
step keeps the invariant (R24) and the descriptor (R25), and what a step does with what the host presents (R21). All
of it rests on one description of a move of the sequencer: at a transfer's position it makes the transfer or a line of
its frame, at a converter's position it moves one bit. -/

namespace Sys2Proof.Machine

/-! ## Positions -/

/-- The positions at which a transfer is made (10_state.md R22). -/
def Pos.isTransfer : Pos → Bool
  | .cmd _ | .init _ _ | .win _ _ | .stream _ => true
  | .idle | .xbm _ _ _ | .frame _ _ => false

/-- The last executed line of the chip-select frame a position stands in, if it stands in one. -/
def Pos.frameLine : Pos → Option FrameLine
  | .frame _ line => some line
  | _ => none

theorem Pos.base_of_isTransfer {p : Pos} (h : p.isTransfer = true) : p.base = p := by
  cases p with
  | frame p line => cases h
  | _ => rfl

theorem Pos.base_of_frameLine_none {p : Pos} (h : p.frameLine = none) : p.base = p := by
  cases p with
  | frame p line => cases h
  | _ => rfl

theorem Pos.eq_frame_of_frameLine {p : Pos} {line : FrameLine} (h : p.frameLine = some line) :
    p = .frame p.base line := by
  cases p <;> cases h
  rfl

theorem Pos.frameLine_of_isTransfer {p : Pos} (h : p.isTransfer = true) : p.frameLine = none := by
  cases p with
  | frame p line => cases h
  | _ => rfl

/-- Outside a frame the chip select is not held. -/
theorem Pos.holdsSelect_of_frameLine_none {p : Pos} (h : p.frameLine = none) : p.holdsSelect = false := by
  cases p with
  | frame p line => cases h
  | _ => rfl

/-! ## The positions of an operation's transfers -/

theorem exists_place_of_mem_cmdSeq {g : CmdGrouping} {place : Nat → Pos} {bytes : List Byte} {t : Transfer}
    (h : t ∈ cmdSeq g place bytes) : ∃ k, t.pos = place k := by
  cases g with
  | perByte =>
    obtain ⟨k, _, rfl⟩ := List.mem_mapIdx.mp h
    exact ⟨k, rfl⟩
  | perCommand => exact ⟨0, by rw [List.mem_singleton.mp h]⟩

theorem cmdSeq_pairwise_pos (g : CmdGrouping) {place : Nat → Pos} (hplace : Function.Injective place)
    (bytes : List Byte) : (cmdSeq g place bytes).Pairwise fun t u => t.pos ≠ u.pos := by
  cases g with
  | perByte =>
    rw [List.pairwise_iff_getElem]
    intro j k hj hk hjk
    simpa [cmdSeq] using hplace.ne hjk.ne
  | perCommand => exact List.pairwise_singleton _ _

theorem exists_index_of_mem_streamFrom {k fuel i : Nat} {bytes : List Byte} {t : Transfer}
    (h : t ∈ streamFrom k fuel i bytes) : ∃ j, i ≤ j ∧ t.pos = .stream j := by
  induction fuel generalizing i bytes with
  | zero => cases bytes <;> cases h
  | succ fuel ih =>
    cases bytes with
    | nil => cases h
    | cons v vs =>
      obtain rfl | h := List.mem_cons.mp h
      · exact ⟨i, le_rfl, rfl⟩
      · obtain ⟨j, hj, hpos⟩ := ih h
        exact ⟨j, by omega, hpos⟩

/-- Chunks of at least one byte begin at rising indices. -/
theorem streamFrom_pairwise_pos {k : Nat} (hk : 1 ≤ k) (fuel i : Nat) (bytes : List Byte) :
    (streamFrom k fuel i bytes).Pairwise fun t u => t.pos ≠ u.pos := by
  induction fuel generalizing i bytes with
  | zero => cases bytes <;> exact .nil
  | succ fuel ih =>
    cases bytes with
    | nil => exact .nil
    | cons v vs =>
      refine List.pairwise_cons.mpr ⟨fun t ht => ?_, ih _ _⟩
      obtain ⟨j, hj, hpos⟩ := exists_index_of_mem_streamFrom ht
      rw [hpos]
      intro h
      cases h
      omega

theorem mem_windowTransfers_pos {s : State} {t : Transfer} (h : t ∈ windowTransfers s) :
    ∃ phase k, t.pos = .win phase k := by
  simp only [windowTransfers, List.mem_append] at h
  obtain (h | h) | h := h <;> exact ⟨_, exists_place_of_mem_cmdSeq h⟩

theorem windowTransfers_pairwise_pos (s : State) :
    (windowTransfers s).Pairwise fun t u => t.pos ≠ u.pos := by
  have hseq : ∀ phase bytes, (cmdSeq s.params.cmdGrouping (.win phase) bytes).Pairwise fun t u => t.pos ≠ u.pos :=
    fun phase => cmdSeq_pairwise_pos _ fun _ _ h => by injection h
  have hne : ∀ {p q bs cs t u}, p ≠ q → t ∈ cmdSeq s.params.cmdGrouping (.win p) bs →
      u ∈ cmdSeq s.params.cmdGrouping (.win q) cs → t.pos ≠ u.pos := fun hpq ht hu => by
    obtain ⟨_, ht⟩ := exists_place_of_mem_cmdSeq ht
    obtain ⟨_, hu⟩ := exists_place_of_mem_cmdSeq hu
    rw [ht, hu]
    exact fun h => hpq (by injection h)
  simp only [windowTransfers, List.pairwise_append, List.mem_append]
  refine ⟨⟨hseq _ _, hseq _ _, fun t ht u hu => hne (by decide) ht hu⟩, hseq _ _, fun t ht u hu => ?_⟩
  obtain ht | ht := ht <;> exact hne (by decide) ht hu

theorem loadFbTransfers_pairwise_pos (buf : Option BufRef) {s : State}
    (hk : 1 ≤ maxChunk s.params s.cfg.transport) :
    (loadFbTransfers buf s).Pairwise fun t u => t.pos ≠ u.pos := by
  refine List.pairwise_append.mpr ⟨windowTransfers_pairwise_pos s, streamFrom_pairwise_pos hk _ _ _,
    fun t ht u hu => ?_⟩
  obtain ⟨_, _, ht⟩ := mem_windowTransfers_pos ht
  obtain ⟨_, _, hu⟩ := exists_index_of_mem_streamFrom hu
  rw [ht, hu]
  nofun

theorem initRows_pairwise_step (p : Params) (height : Nat) :
    (initRows p height).Pairwise fun r q => r.1 ≠ q.1 := by
  simp [initRows]

theorem initTransfers_pairwise_pos (s : State) : (initTransfers s).Pairwise fun t u => t.pos ≠ u.pos := by
  refine List.pairwise_flatMap.mpr ⟨fun row _ => cmdSeq_pairwise_pos _ (fun _ _ h => by injection h) _,
    (initRows_pairwise_step _ _).imp fun hne t ht u hu => ?_⟩
  obtain ⟨_, ht⟩ := exists_place_of_mem_cmdSeq ht
  obtain ⟨_, hu⟩ := exists_place_of_mem_cmdSeq hu
  rw [ht, hu]
  exact fun h => hne (by injection h)

/-- No two transfers of an operation are made at one position. -/
theorem operationTransfers_pairwise_pos (i : Instr) {s : State} (hk : 1 ≤ maxChunk s.params s.cfg.transport) :
    (operationTransfers i s).Pairwise fun t u => t.pos ≠ u.pos := by
  cases i with
  | init => exact initTransfers_pairwise_pos s
  | loadFb buf => exact loadFbTransfers_pairwise_pos buf hk
  | loadXbm xbm fb => exact loadFbTransfers_pairwise_pos fb hk
  | _ => exact cmdSeq_pairwise_pos _ (fun _ _ h => by injection h) _

/-- Transfers are made at positions of their own kind, never inside a frame or the converter. -/
theorem operationTransfers_isTransfer {i : Instr} {s : State} {t : Transfer} (h : t ∈ operationTransfers i s) :
    t.pos.isTransfer = true := by
  have hload : ∀ buf, t ∈ loadFbTransfers buf s → t.pos.isTransfer = true := fun buf h => by
    obtain h | h := List.mem_append.mp h
    · obtain ⟨_, _, h⟩ := mem_windowTransfers_pos h
      rw [h, Pos.isTransfer]
    · obtain ⟨_, _, h⟩ := exists_index_of_mem_streamFrom h
      rw [h, Pos.isTransfer]
  cases i with
  | init =>
    obtain ⟨_, _, h⟩ := List.mem_flatMap.mp h
    obtain ⟨_, h⟩ := exists_place_of_mem_cmdSeq h
    rw [h, Pos.isTransfer]
  | loadFb buf => exact hload buf h
  | loadXbm xbm fb => exact hload fb h
  | _ =>
    obtain ⟨_, h⟩ := exists_place_of_mem_cmdSeq h
    rw [h, Pos.isTransfer]

/-- The transfers of an operation depend on the descriptor, the parameters and the caller's memory alone. -/
theorem operationTransfers_congr (i : Instr) {s t : State} (hcfg : t.cfg = s.cfg) (hparams : t.params = s.params)
    (hmem : t.mem = s.mem) : operationTransfers i t = operationTransfers i s := by
  have hload : ∀ buf, loadFbTransfers buf t = loadFbTransfers buf s := fun buf => by
    have hdata : dataBytes buf t = dataBytes buf s := by
      cases buf <;> simp only [dataBytes_none, dataBytes_some, State.bufferBytes, hcfg, hmem]
    simp only [loadFbTransfers, windowTransfers, hdata, hcfg, hparams]
  cases i with
  | init => simp only [operationTransfers, initTransfers, hcfg, hparams]
  | loadFb buf => exact hload buf
  | loadXbm xbm fb => exact hload fb
  | _ => simp only [operationTransfers, hparams]

/-- The Transfer Engine begins with the column window (43_frame_buffer_transfer.md R160). -/
theorem firstPos_loadFbTransfers (buf : Option BufRef) (s : State) :
    firstPos (loadFbTransfers buf s) = .win .col 0 := by
  unfold loadFbTransfers windowTransfers
  cases s.params.cmdGrouping <;> rfl

/-! ## The launch checks -/

/-- The checks before an operation find nothing exactly when parameters, geometry and buffers are admitted. -/
theorem checks_eq_none_iff (s : State) (check : Option Refusal) :
    (instanceCheck s).or check = none ↔
      legalParams s.params = true ∧ legalGeometry s.cfg = true ∧ check = none := by
  unfold instanceCheck
  cases legalParams s.params <;> cases legalGeometry s.cfg <;> simp

/-- The latched request selects the operation `i`, and nothing refuses it. -/
structure Latched (i : Instr) (s : State) : Prop where
  decoded : decodeRequest s.req = .ok i
  admitted : (instanceCheck s).or (bufferCheck s.cfg i) = none

section
variable {i : Instr} {s u : State}

theorem Latched.legalParams (h : Latched i s) : legalParams s.params = true :=
  ((checks_eq_none_iff s _).mp h.admitted).1

theorem Latched.legalGeometry (h : Latched i s) : legalGeometry s.cfg = true :=
  ((checks_eq_none_iff s _).mp h.admitted).2.1

theorem Latched.buffers (h : Latched i s) : bufferCheck s.cfg i = none :=
  ((checks_eq_none_iff s _).mp h.admitted).2.2

theorem Latched.congr (h : Latched i s) (hs : SameHost s u) : Latched i u where
  decoded := hs.req ▸ h.decoded
  admitted := by
    rw [checks_eq_none_iff, hs.params, hs.cfg, ← checks_eq_none_iff s]
    exact h.admitted

theorem Latched.maxChunk_pos (h : Latched i s) : 1 ≤ maxChunk s.params s.cfg.transport :=
  State.Ready.maxChunk_pos (s := { s with pos := .idle }) ⟨rfl, h.legalParams, h.legalGeometry⟩ _

end

/-! ## One move at a transfer -/

/-- The sequencer stands at the transfer `t` of the latched operation `i`, or inside its frame, and `rest` comes after
it. -/
structure StandsAt (i : Instr) (t : Transfer) (rest : List Transfer) (s : State) : Prop where
  latched : Latched i s
  suffix : t :: rest <:+ operationTransfers i s
  base : s.pos.base = t.pos

section
variable {i : Instr} {t : Transfer} {rest : List Transfer} {s u : State}

theorem StandsAt.mem (h : StandsAt i t rest s) : t ∈ operationTransfers i s :=
  h.suffix.subset List.mem_cons_self

theorem StandsAt.isTransfer (h : StandsAt i t rest s) : t.pos.isTransfer = true :=
  operationTransfers_isTransfer h.mem

theorem StandsAt.congr (h : StandsAt i t rest s) (hs : SameHost s u) (hm : u.mem = s.mem)
    (hb : u.pos.base = t.pos) : StandsAt i t rest u where
  latched := h.latched.congr hs
  suffix := operationTransfers_congr i hs.cfg hs.params hm ▸ h.suffix
  base := hb

/-- From one transfer on to the next. -/
theorem StandsAt.next {v : Transfer} (h : StandsAt i v (t :: rest) s) (hs : SameHost s u) (hm : u.mem = s.mem)
    (hpos : u.pos = t.pos) : StandsAt i t rest u where
  latched := h.latched.congr hs
  suffix := operationTransfers_congr i hs.cfg hs.params hm ▸ (List.suffix_cons v (t :: rest)).trans h.suffix
  base := by
    have ht := operationTransfers_isTransfer (h.suffix.subset (List.mem_cons_of_mem v List.mem_cons_self))
    rw [hpos, Pos.base_of_isTransfer ht]

/-- The sequencer finds its transfer by the position, for no earlier one is made there. -/
theorem StandsAt.dropWhile (h : StandsAt i t rest s) :
    (operationTransfers i s).dropWhile (fun u => u.pos != s.pos.base) = t :: rest := by
  obtain ⟨pre, hpre⟩ := h.suffix
  have hpair := operationTransfers_pairwise_pos i h.latched.maxChunk_pos
  rw [← hpre] at hpair ⊢
  have hne : ∀ u ∈ pre, (u.pos != s.pos.base) = true := fun u hu => by
    rw [h.base, bne_iff_ne]
    exact (List.pairwise_append.mp hpair).2.2 u hu t List.mem_cons_self
  rw [List.dropWhile_append_of_pos hne, List.dropWhile_cons_of_neg]
  simp [h.base]

theorem tick_latched (h : Latched i s) : tick s = tickInside i s := by
  simp only [tick, h.decoded, h.admitted]

/-- At a transfer's position a move is a move of the transfer. -/
theorem StandsAt.tick_eq (h : StandsAt i t rest s) : tick s = tickTransfer (operationTransfers i s) s := by
  rw [tick_latched h.latched]
  unfold tickInside
  split
  · next hpos =>
    have hbase := h.base
    have ht := h.isTransfer
    rw [hpos] at hbase
    rw [← hbase] at ht
    cases ht
  · rfl

/-- Under 4-wire SPI a move at a transfer executes the next line of its frame (40_transport_encoder.md R102). -/
theorem StandsAt.tick_frame (h : StandsAt i t rest s) (hspi : s.cfg.transport = .spi4) :
    tick s = .next (tickFrame t.pos t rest s s.pos.frameLine) := by
  rw [h.tick_eq, tickTransfer, h.dropWhile, ← h.base]
  simp only [hspi]
  generalize s.pos = p
  cases p <;> rfl

/-- Under the other transports a move at a transfer is the whole call of TxSend. -/
theorem StandsAt.tick_send (h : StandsAt i t rest s) (hspi : s.cfg.transport ≠ .spi4) (hpos : s.pos = t.pos) :
    tick s = .next (afterTransfer (txSend t.tag t.bytes s).1 rest (txSend t.tag t.bytes s).2) := by
  have ht := h.isTransfer
  rw [h.tick_eq, tickTransfer, h.dropWhile]
  simp only [hpos]
  generalize t.pos = p at ht
  cases htr : s.cfg.transport with
  | spi4 => exact absurd htr hspi
  | i2c | spi3 =>
    cases p with
    | frame p line => cases ht
    | _ => rfl

end

/-! ## What one move of the sequencer can do -/

/-- The moves of the sequencer inside the latched operation `i` (10_state.md R22): one bit of the converter, one line
of a chip-select frame, or one whole call of TxSend. -/
inductive Moves (i : Instr) (s u : State) : Prop
  | bit (xbm fb : BufRef) (p x b : Nat) (hi : i = .loadXbm (some xbm) (some fb)) (hpos : s.pos = .xbm p x b)
      (hp : p < pages s.cfg) (hx : x < s.cfg.width) (hb : b < 8) (hu : u = tickXbm xbm fb p x b s)
  | line (t : Transfer) (rest : List Transfer) (hat : StandsAt i t rest s) (hspi : s.cfg.transport = .spi4)
      (hu : u = tickFrame t.pos t rest s s.pos.frameLine)
  | send (t : Transfer) (rest : List Transfer) (hat : StandsAt i t rest s) (hspi : s.cfg.transport ≠ .spi4)
      (hpos : s.pos = t.pos) (hu : u = afterTransfer (txSend t.tag t.bytes s).1 rest (txSend t.tag t.bytes s).2)

theorem tick_of_moves {i : Instr} {s u : State} (hl : Latched i s) (h : Moves i s u) : tick s = .next u := by
  cases h with
  | bit xbm fb p x b hi hpos hp hx hb hu =>
    rw [tick_latched hl, hi, hu]
    simp only [tickInside, hpos]
    exact if_pos ⟨hp, hx, hb⟩
  | line t rest hat hspi hu => rw [hat.tick_frame hspi, hu]
  | send t rest hat hspi hpos hu => rw [hat.tick_send hspi hpos, hu]

/-- A move at a transfer's position, or inside a frame, is made for one of the operation's transfers. -/
theorem moves_of_tickTransfer {i : Instr} {s u : State} (hl : Latched i s)
    (h : tickTransfer (operationTransfers i s) s = .next u) : Moves i s u := by
  have hmove := h
  unfold tickTransfer at h
  split at h
  · cases h
  · next t rest hdrop =>
    have hbase : s.pos.base = t.pos := by
      have hhead := List.head?_dropWhile_not (fun t : Transfer => t.pos != s.pos.base) (operationTransfers i s)
      rw [hdrop] at hhead
      exact (bne_eq_false_iff_eq.mp hhead).symm
    have hat : StandsAt i t rest s := ⟨hl, hdrop ▸ List.dropWhile_suffix _, hbase⟩
    rw [← hat.tick_eq] at hmove
    by_cases hspi : s.cfg.transport = .spi4
    · rw [hat.tick_frame hspi] at hmove
      exact .line t rest hat hspi (Host.Outcome.next.inj hmove).symm
    cases hline : s.pos.frameLine with
    | none =>
      have hpos : s.pos = t.pos := (Pos.base_of_frameLine_none hline).symm.trans hbase
      rw [hat.tick_send hspi hpos] at hmove
      exact .send t rest hat hspi hpos (Host.Outcome.next.inj hmove).symm
    | some line =>
      rw [Pos.eq_frame_of_frameLine hline] at h
      cases htr : s.cfg.transport with
      | spi4 => exact absurd htr hspi
      | i2c | spi3 => simp [htr] at h

/-- What a move of the sequencer can do. -/
theorem moves_of_tick {s u : State} (h : tick s = .next u) : ∃ i, Latched i s ∧ Moves i s u := by
  unfold tick at h
  split at h
  · cases h
  next i hdec =>
  split at h
  · cases h
  next hcheck =>
  refine ⟨i, ⟨hdec, hcheck⟩, ?_⟩
  unfold tickInside at h
  split at h
  · next p x b xbm fb hpos =>
    split at h
    · next hin =>
      obtain ⟨hp, hx, hb⟩ := hin
      exact .bit xbm fb p x b rfl hpos hp hx hb (Host.Outcome.next.inj h).symm
    · cases h
  · exact moves_of_tickTransfer ⟨hdec, hcheck⟩ h

/-- Where a transfer ends the sequencer goes on to a later one, or to idle with a status. -/
theorem afterTransfer_eq (st : Status) (rest : List Transfer) (s : State) :
    ∃ p status, afterTransfer st rest s = { s with pos := p, status := status } ∧
      (p = .idle ∨ ∃ t ∈ rest, t.pos = p) := by
  unfold afterTransfer
  split
  · cases rest with
    | nil => exact ⟨.idle, some 0, rfl, .inl rfl⟩
    | cons t ts => exact ⟨t.pos, s.status, rfl, .inr ⟨t, List.mem_cons_self, rfl⟩⟩
  · exact ⟨.idle, some st, rfl, .inl rfl⟩

/-! ## Moves look at nothing the host presents -/

theorem afterTransfer_withPort (st : Status) (rest : List Transfer) (s : State) (q : List HostEvent) :
    afterTransfer st rest { s with port := q } = { afterTransfer st rest s with port := q } := by
  unfold afterTransfer
  split
  · cases rest <;> rfl
  · rfl

theorem txSend_withPort (tag : Tag) (bytes : List Byte) (s : State) (q : List HostEvent) :
    txSend tag bytes { s with port := q } =
      ((txSend tag bytes s).1, { (txSend tag bytes s).2 with port := q }) := by
  simp only [txSend]
  cases s.cfg.transport <;> rfl

theorem tickFrame_withPort (p : Pos) (t : Transfer) (rest : List Transfer) (s : State) (line : Option FrameLine)
    (q : List HostEvent) :
    tickFrame p t rest { s with port := q } line = { tickFrame p t rest s line with port := q } := by
  match line with
  | none | some .driven | some .selected => rfl
  | some (.written st) => exact afterTransfer_withPort st rest (s.driveCs .deasserted) q

theorem tickXbm_withPort (xbm fb : BufRef) (p x b : Nat) (s : State) (q : List HostEvent) :
    tickXbm xbm fb p x b { s with port := q } = { tickXbm xbm fb p x b s with port := q } := by
  have hnext : nextXbm fb p x b { s with port := q } = nextXbm fb p x b s := by
    simp only [nextXbm, firstPos_loadFbTransfers]
  simp only [tickXbm, hnext]
  split <;> rfl

/-- A move of the sequencer is the same whatever waits at the port. -/
theorem tick_withPort {s u : State} (h : tick s = .next u) (q : List HostEvent) :
    tick { s with port := q } = .next { u with port := q } := by
  obtain ⟨i, hl, hmoves⟩ := moves_of_tick h
  have hat' : ∀ {t rest}, StandsAt i t rest s → StandsAt i t rest { s with port := q } := fun hat =>
    ⟨⟨hl.decoded, hl.admitted⟩, operationTransfers_congr i (s := s) rfl rfl rfl ▸ hat.suffix, hat.base⟩
  refine tick_of_moves (i := i) ⟨hl.decoded, hl.admitted⟩ ?_
  cases hmoves with
  | bit xbm fb p x b hi hpos hp hx hb hu =>
    exact .bit xbm fb p x b hi hpos hp hx hb (hu ▸ (tickXbm_withPort xbm fb p x b s q).symm)
  | line t rest hat hspi hu =>
    exact .line t rest (hat' hat) hspi (hu ▸ (tickFrame_withPort t.pos t rest s _ q).symm)
  | send t rest hat hspi hpos hu =>
    refine .send t rest (hat' hat) hspi hpos ?_
    rw [txSend_withPort, hu]
    exact (afterTransfer_withPort _ rest _ q).symm

/-- A block that makes a move is not idle. -/
theorem busy_of_tick {s u : State} (h : tick s = .next u) : s.pos ≠ .idle := by
  obtain ⟨i, _, hmoves⟩ := moves_of_tick h
  have hbase : ∀ {t rest}, StandsAt i t rest s → s.pos ≠ .idle := fun hat hidle => by
    have ht := hat.isTransfer
    rw [← hat.base, hidle] at ht
    cases ht
  cases hmoves with
  | bit xbm fb p x b hi hpos => exact hpos ▸ nofun
  | line t rest hat => exact hbase hat
  | send t rest hat => exact hbase hat

/-! ## Runs of the sequencer -/

theorem ticks_succ {n : Nat} {s u : State} :
    ticks (n + 1) s = .next u ↔ ∃ t, tick s = .next t ∧ ticks n t = .next u := by
  rw [ticks]
  cases tick s <;> simp

/-- Some number of moves of the sequencer lead from one state to the other. -/
def Runs (s u : State) : Prop := ∃ n, ticks n s = .next u

theorem Runs.refl (s : State) : Runs s s := ⟨0, rfl⟩

theorem Runs.head {s t u : State} (h : tick s = .next t) (hr : Runs t u) : Runs s u := by
  obtain ⟨n, hn⟩ := hr
  exact ⟨n + 1, ticks_succ.mpr ⟨t, h, hn⟩⟩

theorem Runs.single {s t : State} (h : tick s = .next t) : Runs s t := .head h (.refl t)

/-- What a move keeps, a run keeps. -/
theorem Runs.keeps {P : State → Prop} (hP : ∀ s t, P s → tick s = .next t → P t) {s u : State} (h : Runs s u)
    (hs : P s) : P u := by
  obtain ⟨n, hn⟩ := h
  induction n generalizing s with
  | zero => cases hn; exact hs
  | succ n ih =>
    obtain ⟨t, ht, hn⟩ := ticks_succ.mp hn
    exact ih (hP s t hs ht) hn

theorem Runs.host {s u : State} (h : Runs s u) : SameHost s u :=
  h.keeps (P := SameHost s) (fun _ _ hs ht => hs.trans (tick_host ht)) (.refl s)

theorem Runs.trans {s t u : State} (h : Runs s t) (k : Runs t u) : Runs s u := by
  obtain ⟨n, hn⟩ := h
  induction n generalizing s with
  | zero => cases hn; exact k
  | succ n ih =>
    obtain ⟨_, ht, hn⟩ := ticks_succ.mp hn
    exact .head ht (ih hn)

/-! ## The transfers of an operation, one position at a time -/

theorem txSend_mem (tag : Tag) (bytes : List Byte) (s : State) : (txSend tag bytes s).2.mem = s.mem := by
  simp only [txSend]
  cases s.cfg.transport <;> rfl

/-- From a transfer's position the moves of the sequencer make the whole call of TxSend: the four lines of its frame
under 4-wire SPI, one move otherwise. -/
theorem StandsAt.runs_txSend {i : Instr} {t : Transfer} {rest : List Transfer} {s : State}
    (h : StandsAt i t rest s) (hpos : s.pos = t.pos) :
    Runs s (afterTransfer (txSend t.tag t.bytes s).1 rest (txSend t.tag t.bytes s).2) := by
  by_cases hspi : s.cfg.transport = .spi4
  · have hline : s.pos.frameLine = none := by rw [hpos, Pos.frameLine_of_isTransfer h.isTransfer]
    have hsend : txSend t.tag t.bytes s = txSpi4 t.tag t.bytes s := by rw [txSend, hspi]
    rw [hsend, ← tickFrame_run t.pos t rest s]
    have hdriven : StandsAt i t rest (tickFrame t.pos t rest s none) :=
      h.congr ⟨rfl, rfl, rfl, rfl⟩ rfl rfl
    have hselected := hdriven.congr (tickFrame_host t.pos t rest _ (some .driven)) rfl rfl
    have hwritten := hselected.congr (tickFrame_host t.pos t rest _ (some .selected)) rfl rfl
    exact .head (hline ▸ h.tick_frame hspi) <| .head (hdriven.tick_frame hspi) <|
      .head (hselected.tick_frame hspi) <| .single (hwritten.tick_frame hspi)
  · exact .single (h.tick_send hspi hpos)

/-- A list of transfers, from the position of the first one. -/
theorem runTransfers_at {t : Transfer} {s : State} (rest : List Transfer) (hpos : s.pos = t.pos) :
    runTransfers (t :: rest) s =
      if succeeded (txSend t.tag t.bytes s).1 then runTransfers rest (txSend t.tag t.bytes s).2
      else (txSend t.tag t.bytes s).2.abort (txSend t.tag t.bytes s).1 := by
  have hs : ({ s with pos := t.pos } : State) = s := by rw [← hpos]
  rw [runTransfers, hs]

/-- From the position of its first transfer the sequencer makes a list of transfers as the operation does in one
step (10_state.md R22). -/
theorem StandsAt.runs_transfers {i : Instr} {t : Transfer} {rest : List Transfer} {s : State}
    (h : StandsAt i t rest s) (hpos : s.pos = t.pos) : Runs s (runTransfers (t :: rest) s) := by
  induction rest generalizing t s with
  | nil =>
    rw [runTransfers_at [] hpos]
    exact h.runs_txSend hpos
  | cons u rest ih =>
    have hrun := h.runs_txSend hpos
    rw [runTransfers_at _ hpos]
    unfold afterTransfer at hrun
    split at hrun
    · next hok =>
      obtain ⟨hcfg, hparams, hreq, hport⟩ := txSend_host t.tag t.bytes s
      have hu := h.next (u := { (txSend t.tag t.bytes s).2 with pos := u.pos }) ⟨hcfg, hparams, hreq, hport⟩
        (txSend_mem ..) rfl
      rw [if_pos hok]
      exact hrun.trans (ih hu rfl)
    · next hfail => rwa [if_neg hfail]

/-! ## The conversion, one bit at a time -/

/-- Moves that go from place to place make the fold of what they do. -/
theorem Runs.foldl {f : State → Nat → State} {place : Nat → Pos} {n : Nat} {s : State}
    (hsame : ∀ u k, SameButMem u (f u k))
    (h : ∀ k, k < n → ∀ u, SameButMem s u → Runs { u with pos := place k } { f u k with pos := place (k + 1) }) :
    Runs { s with pos := place 0 } { (List.range n).foldl f s with pos := place n } := by
  induction n with
  | zero => exact .refl _
  | succ n ih =>
    rw [List.range_succ, List.foldl_append]
    exact (ih fun k hk => h k (by omega)).trans (h n n.lt_succ_self _ (.foldl f hsame _ s))

/-- The position from which page `p` is converted, after the last page that of the first transfer. -/
def pagePlace (d : Descriptor) (p : Nat) : Pos := if p < pages d then .xbm p 0 0 else .win .col 0

/-- The position from which column `x` is converted, after the last column that of the next page. -/
def columnPlace (d : Descriptor) (p x : Nat) : Pos := if x < d.width then .xbm p x 0 else pagePlace d (p + 1)

/-- The position from which bit `b` is gathered, after the last bit that of the next column. -/
def bitPlace (d : Descriptor) (p x b : Nat) : Pos := if b < 8 then .xbm p x b else columnPlace d p (x + 1)

/-- What one move of the converter does, but for the position: it gathers a bit, and stores the byte after the last
one (44_xbm_converter.md R176, R178). -/
def bitMove (xbm fb : BufRef) (p x : Nat) (s : State) (b : Nat) : State :=
  if b < 7 then gatherBit xbm p x b s else storeColumn fb p x (gatherBit xbm p x b s)

theorem nextXbm_eq (fb : BufRef) (p x b : Nat) (s : State) : nextXbm fb p x b s = bitPlace s.cfg p x (b + 1) := by
  simp only [nextXbm, firstPos_loadFbTransfers, bitPlace, columnPlace, pagePlace,
    show b + 1 < 8 ↔ b < 7 from Nat.succ_lt_succ_iff]

theorem tickXbm_eq (xbm fb : BufRef) (p x b : Nat) (s : State) (q : Pos) :
    tickXbm xbm fb p x b { s with pos := q } =
      { bitMove xbm fb p x s b with pos := bitPlace s.cfg p x (b + 1) } := by
  unfold tickXbm bitMove
  simp only [nextXbm_eq]
  split <;> rfl

theorem bitMove_same (xbm fb : BufRef) (p x : Nat) (s : State) (b : Nat) :
    SameButMem s (bitMove xbm fb p x s b) := by
  unfold bitMove
  split
  · exact gatherBit_same ..
  · exact (gatherBit_same ..).trans (storeColumn_same ..)

/-- The eight moves of a column convert it. -/
theorem foldl_bitMove (xbm fb : BufRef) (p x : Nat) (s : State) :
    (List.range 8).foldl (bitMove xbm fb p x) s = convertColumn xbm fb p x s := rfl

section
variable {xbm fb : BufRef} {s : State}

theorem Latched.converting {i : Instr} {u : State} (hl : Latched i s) (hsame : SameButMem s u) (q : Pos) :
    Latched i { u with pos := q } :=
  hl.congr ⟨hsame.cfg, hsame.params, hsame.req, hsame.port⟩

/-- From the place of a column the moves of the converter convert it. -/
theorem runs_convertColumn (hl : Latched (.loadXbm (some xbm) (some fb)) s) {p x : Nat} (hp : p < pages s.cfg)
    (hx : x < s.cfg.width) :
    Runs { s with pos := columnPlace s.cfg p x }
      { convertColumn xbm fb p x s with pos := columnPlace s.cfg p (x + 1) } := by
  have hbits := Runs.foldl (s := s) (place := bitPlace s.cfg p x) (n := 8) (bitMove_same xbm fb p x)
    fun b hb u hsame => by
      refine .single ?_
      rw [← hsame.cfg] at hp hx ⊢
      rw [← tickXbm_eq xbm fb p x b u (bitPlace u.cfg p x b)]
      refine tick_of_moves (hl.converting hsame _) ?_
      exact .bit xbm fb p x b rfl (if_pos hb) hp hx hb rfl
  rw [foldl_bitMove] at hbits
  rwa [columnPlace, if_pos hx]

/-- From the place of a page the moves of the converter convert it. -/
theorem runs_convertPage (hl : Latched (.loadXbm (some xbm) (some fb)) s) {p : Nat} (hp : p < pages s.cfg)
    (hw : 0 < s.cfg.width) :
    Runs { s with pos := pagePlace s.cfg p } { convertPage xbm fb p s with pos := pagePlace s.cfg (p + 1) } := by
  have hcols := Runs.foldl (s := s) (place := columnPlace s.cfg p) (n := s.cfg.width)
    (fun u x => convertColumn_same xbm fb p x u) fun x hx u hsame => by
      rw [← hsame.cfg] at hp hx ⊢
      exact runs_convertColumn (hl.converting hsame u.pos) hp hx
  rw [columnPlace, if_pos hw, columnPlace, if_neg (lt_irrefl _)] at hcols
  rwa [pagePlace, if_pos hp]

/-- From its first position the moves of the converter make the whole conversion, and come to the first transfer. -/
theorem runs_convert (hl : Latched (.loadXbm (some xbm) (some fb)) s) (hw : 0 < s.cfg.width) :
    Runs { s with pos := pagePlace s.cfg 0 } { convert xbm fb s with pos := .win .col 0 } := by
  have hpages := Runs.foldl (s := s) (place := pagePlace s.cfg) (n := pages s.cfg)
    (fun u p => convertPage_same xbm fb p u) fun p hp u hsame => by
      rw [← hsame.cfg] at hp hw ⊢
      exact runs_convertPage (hl.converting hsame u.pos) hp hw
  rwa [pagePlace.eq_1 _ (pages s.cfg), if_neg (lt_irrefl _)] at hpages

end

/-! ## The operation as a whole -/

/-- A latched operation begins with the converter's first bit where it is LOAD_XBM, and with its first transfer
where it is not. -/
theorem Latched.start_cases {i : Instr} {s : State} (h : Latched i s) :
    (∃ xbm fb, i = .loadXbm (some xbm) (some fb)) ∨
      startPos i s = firstPos (operationTransfers i s) ∧ prepared i s = s := by
  cases i with
  | loadXbm xbm fb =>
    have hbuf := h.buffers
    rcases xbm with _ | xbm
    · simp [bufferCheck, checkXbm] at hbuf
    rcases fb with _ | fb
    · simp [bufferCheck, checkXbm] at hbuf
    exact .inl ⟨xbm, fb, rfl⟩
  | _ => exact .inr ⟨rfl, rfl⟩

/-- A legal panel has columns and pages. -/
theorem Latched.panel_pos {i : Instr} {s : State} (h : Latched i s) : 0 < pages s.cfg ∧ 0 < s.cfg.width := by
  obtain ⟨hw | hw, hh | hh | hh⟩ := legalGeometry_cases h.legalGeometry <;> simp [pages, hw, hh]

/-- From the first position of a latched operation the sequencer runs to the state the operation reaches in one
step (10_state.md R22). -/
theorem Latched.runs {i : Instr} {s : State} (h : Latched i s) : Runs (beginOperation i s) (operationOf i s) := by
  have hprep : Runs (beginOperation i s)
      { prepared i s with pos := firstPos (operationTransfers i (prepared i s)) } := by
    obtain ⟨xbm, fb, rfl⟩ | ⟨hstart, hprep⟩ := h.start_cases
    · obtain ⟨hp, hw⟩ := h.panel_pos
      have hrun := runs_convert h hw
      rw [pagePlace, if_pos hp] at hrun
      rw [operationTransfers, firstPos_loadFbTransfers]
      exact hrun
    · rw [hprep, ← hstart]
      exact .refl _
  refine hprep.trans ?_
  have hsame := prepared_same i s
  rw [operationOf]
  obtain ⟨t, ts, hts⟩ := List.exists_cons_of_ne_nil (operationTransfers_ne_nil i (prepared i s))
  rw [hts]
  have hat : StandsAt i t ts { prepared i s with pos := t.pos } := by
    refine ⟨h.converting hsame t.pos, ?_, ?_⟩
    · rw [operationTransfers_congr i (s := prepared i s) (t := { prepared i s with pos := t.pos }) rfl rfl rfl, hts]
    · exact Pos.base_of_isTransfer (operationTransfers_isTransfer (hts ▸ List.mem_cons_self))
  exact hat.runs_transfers rfl

/-- Where exec answers a next state, the operation the request selects is latched. -/
theorem latched_of_exec {i : Instr} {s t : State} (hdec : decodeRequest s.req = .ok i) (h : exec i s = .next t) :
    Latched i s ∧ t = operationOf i s := by
  obtain ⟨⟨_, hparams, hgeometry⟩, hbuffers, rfl⟩ := exec_next h
  exact ⟨⟨hdec, (checks_eq_none_iff s _).mpr ⟨hparams, hgeometry, hbuffers⟩⟩, rfl⟩

/-- However a run of transfers ends, the block is idle with a status. -/
theorem runTransfers_ends (ts : List Transfer) (s : State) :
    (runTransfers ts s).pos = .idle ∧ (runTransfers ts s).status ≠ none := by
  induction ts generalizing s with
  | nil => exact ⟨rfl, nofun⟩
  | cons t ts ih =>
    rw [runTransfers]
    split
    split
    · exact ih _
    · exact ⟨rfl, nofun⟩

/-- Settles O21: an admitted operation is a run of transfers. -/
theorem admittedOperationsEnd : Obligations.AdmittedOperationsEnd := fun i s hready hbuffers =>
  ⟨operationOf i s, exec_ready hready hbuffers, runTransfers_ends _ _⟩

/-! ## The step -/

/-- An idle block takes the next thing the host presents (10_state.md R21). -/
theorem step_idle {s : State} {e : HostEvent} {rest : List HostEvent} (hpos : s.pos = .idle)
    (hport : s.port = e :: rest) : step s = accept e { s with port := rest } := by
  unfold step advance
  rw [hpos, hport]
  cases e <;> rfl

/-- Inside an operation, with nothing presented, a step is a move of the sequencer. -/
theorem step_busy {s : State} (hpos : s.pos ≠ .idle) (hport : s.port = []) : step s = tick s := by
  unfold step advance
  rw [hport]
  cases hp : s.pos with
  | idle => exact absurd hp hpos
  | _ => rfl

/-- A pass is taken from the port, and the sequencer moves. -/
theorem step_pass {s : State} {rest : List HostEvent} (hpos : s.pos ≠ .idle) (hport : s.port = .pass :: rest) :
    step s = tick { s with port := rest } := by
  unfold step advance
  rw [hport]
  cases hp : s.pos with
  | idle => exact absurd hp hpos
  | _ => rfl

/-- What a step can do: take a reset, wait, let the host supply a descriptor or store a byte, run an operation it
requests or begin it, and otherwise make a move of the sequencer. -/
inductive StepsTo (s t : State) : Prop
  | reset (rest : List HostEvent) (ht : t = State.resetEvent { s with port := rest })
  | wait (rest : List HostEvent) (hpos : s.pos = .idle) (ht : t = { s with port := rest })
  | configure (d : Descriptor) (rest : List HostEvent) (hpos : s.pos = .idle) (hport : s.port = .configure d :: rest)
      (ht : t = { s with port := rest, cfg := d })
  | store (addr : Nat) (v : Byte) (rest : List HostEvent) (hpos : s.pos = .idle)
      (ht : t = { s with port := rest, mem := Memory.write s.mem addr v })
  | operate (i : Instr) (r : Request) (rest : List HostEvent) (hpos : s.pos = .idle)
      (hl : Latched i { s with port := rest, req := r })
      (hrun : Runs (beginOperation i { s with port := rest, req := r }) t)
  | move (rest : List HostEvent) (htick : tick { s with port := rest } = .next t)

/-- What an idle block can do with the next thing the host presents. A request leads to a state the sequencer runs to
from the operation's first position, a request to start to that position itself. -/
theorem stepsTo_of_accept {e : HostEvent} {rest : List HostEvent} {s t : State} (hpos : s.pos = .idle)
    (hport : s.port = e :: rest) (h : accept e { s with port := rest } = .next t) : StepsTo s t := by
  cases e with
  | reset => exact .reset rest (Host.Outcome.next.inj h).symm
  | pass => exact .wait rest hpos (Host.Outcome.next.inj h).symm
  | configure d => exact .configure d rest hpos hport (Host.Outcome.next.inj h).symm
  | store addr v => exact .store addr v rest hpos (Host.Outcome.next.inj h).symm
  | request r =>
    simp only [accept] at h
    split at h
    · cases h
    next i hdec =>
    obtain ⟨hl, rfl⟩ := latched_of_exec (s := { s with port := rest, req := r }) hdec h
    exact .operate i r rest hpos hl hl.runs
  | start r =>
    simp only [accept, startRequest] at h
    split at h
    · cases h
    next i hdec =>
    split at h
    · cases h
    next hcheck =>
    cases h
    exact .operate i r rest hpos ⟨hdec, hcheck⟩ (.refl _)

theorem stepsTo_of_step {s t : State} (h : step s = .next t) : StepsTo s t := by
  unfold step advance at h
  split at h
  · next rest _ => exact .reset rest (Host.Outcome.next.inj h).symm
  · next hpos hport => exact .wait s.port hpos (Host.Outcome.next.inj h).symm
  · next hpos hport => exact stepsTo_of_accept hpos hport h
  · exact .move s.port h
  · next rest _ _ _ => exact .move _ h
  · cases h

/-- Settles O45: the request is taken from the port and latched. -/
theorem stepRunsPresentedRequest : Obligations.StepRunsPresentedRequest := by
  intro s r rest i hpos hport hdec
  rw [step_idle hpos hport]
  simp only [accept, hdec]

theorem decodeRequest_encodeRequest (i : Instr) : decodeRequest (encodeRequest i) = .ok i := by
  cases i with
  | loadFb buf => cases buf <;> rfl
  | _ => rfl

/-- Settles O46: the word's request is presented, and it selects the word's instruction again. -/
theorem fetchedWordRuns : Obligations.FetchedWordRuns := by
  intro s nbits w i hword
  have hreq : requestOfWord nbits w = encodeRequest i := by rw [requestOfWord, hword]
  rw [State.withFetchWord, hreq]
  exact stepRunsPresentedRequest _ _ _ i rfl rfl (decodeRequest_encodeRequest i)

/-- Settles O48: the fields of the two reset states. -/
theorem resetValues : Obligations.ResetValues :=
  ⟨rfl, rfl, rfl, rfl, fun _ => ⟨rfl, rfl, rfl, rfl, rfl, rfl⟩⟩

/-- Settles O59: an admitted request to start begins its operation, and inside one a step is a tick. -/
theorem stepInsideOperationIsTick : Obligations.StepInsideOperationIsTick := by
  refine ⟨fun s r rest i hpos hport hdec hcheck => ?_, fun s hpos => ⟨step_busy hpos, fun _ => step_pass hpos⟩⟩
  have hcheck' : (instanceCheck { s with port := rest }).or (bufferCheck s.cfg i) = none := hcheck
  rw [step_idle hpos hport]
  simp only [accept, startRequest, hdec, hcheck']

/-! ## Running an operation by passes -/

/-- Moves of the sequencer are steps at which nothing but passes is presented. -/
theorem steps_of_ticks {n : Nat} {s t : State} (h : ticks n s = .next t) (rest : List HostEvent) :
    steps n { s with port := List.replicate n .pass ++ rest } = .next { t with port := rest } := by
  induction n generalizing s with
  | zero => cases h; rfl
  | succ n ih =>
    obtain ⟨u, hu, h⟩ := ticks_succ.mp h
    have hpos := busy_of_tick hu
    rw [steps, step_pass (s := { s with port := List.replicate (n + 1) .pass ++ rest }) hpos rfl, tick_withPort hu]
    exact ih h

theorem beginOperation_withPort (i : Instr) (s : State) (q : List HostEvent) :
    beginOperation i { s with port := q } = { beginOperation i s with port := q } := by
  cases i <;> rfl

/-- Settles O54: the request to start begins the operation, and the passes let the sequencer run to its end. -/
theorem execIsSequencerRunToIdle : Obligations.ExecIsSequencerRunToIdle := by
  intro i s t r rest hpos hdec hexec
  obtain ⟨hl, ht⟩ := latched_of_exec (s := { s with port := rest, req := r }) hdec hexec
  have hrun := ht ▸ hl.runs
  have hport : t.port = rest := hrun.host.port
  obtain ⟨n, hn⟩ := hrun
  have hstart := stepInsideOperationIsTick.1 { s with port := .start r :: (List.replicate n .pass ++ rest) } r _ i
    hpos rfl hdec hl.admitted
  have hsteps := steps_of_ticks hn rest
  rw [← beginOperation_withPort] at hsteps
  subst hport
  refine ⟨n, ?_⟩
  rw [steps, hstart]
  exact hsteps

/-! ## The invariant -/

section
variable {i : Instr} {t : Transfer} {rest : List Transfer} {s u : State}

theorem inv_of_idle (hmem : Memory.wf s.mem) (hcs : s.cs ≠ .asserted) (hpos : s.pos = .idle) : s.Inv :=
  ⟨hmem, by simp [hcs, hpos, Pos.holdsSelect], .inl hpos⟩

theorem State.Inv.released (h : s.Inv) (hline : s.pos.frameLine = none) : s.cs ≠ .asserted := by
  obtain ⟨_, hcs, _⟩ := h
  rw [Ne, hcs, Pos.holdsSelect_of_frameLine_none hline]
  nofun

theorem Latched.inv_of_transfer (hl : Latched i s) (hmem : Memory.wf s.mem) (hcs : s.cs ≠ .asserted)
    (ht : t ∈ operationTransfers i s) (hpos : t.pos = s.pos) : s.Inv := by
  have hline := Pos.frameLine_of_isTransfer (operationTransfers_isTransfer ht)
  rw [hpos] at hline
  exact ⟨hmem, by simp [hcs, Pos.holdsSelect_of_frameLine_none hline],
    .inr ⟨i, hl.decoded, hl.admitted, .inl ⟨t, ht, .inl hpos⟩⟩⟩

theorem Latched.inv_of_xbm {xbm fb : BufRef} {p x b : Nat} (hl : Latched (.loadXbm (some xbm) (some fb)) s)
    (hmem : Memory.wf s.mem) (hcs : s.cs ≠ .asserted) (hpos : s.pos = .xbm p x b) (hp : p < pages s.cfg)
    (hx : x < s.cfg.width) (hb : b < 8) : s.Inv :=
  ⟨hmem, by simp [hcs, hpos, Pos.holdsSelect],
    .inr ⟨_, hl.decoded, hl.admitted, .inr ⟨xbm, fb, p, x, b, rfl, hpos, hp, hx, hb⟩⟩⟩

/-- Inside a frame the chip select must be as the line says. -/
theorem StandsAt.inv_of_frame {line : FrameLine} (h : StandsAt i t rest s) (hs : SameHost s u) (hm : u.mem = s.mem)
    (hspi : s.cfg.transport = .spi4) (hmem : Memory.wf s.mem) (hpos : u.pos = .frame t.pos line)
    (hcs : u.cs = .asserted ↔ (Pos.frame t.pos line).holdsSelect = true) : u.Inv := by
  have hu := h.congr hs hm (hpos ▸ rfl)
  exact ⟨hm ▸ hmem, hpos ▸ hcs, .inr ⟨i, hu.latched.decoded, hu.latched.admitted,
    .inl ⟨t, hu.mem, .inr ⟨hs.cfg ▸ hspi, line, hpos⟩⟩⟩⟩

/-- A transfer that ended with the chip select released leads on to the next one, or to idle. -/
theorem StandsAt.inv_afterTransfer (h : StandsAt i t rest s) (hs : SameHost s u) (hm : u.mem = s.mem)
    (hmem : Memory.wf s.mem) (hcs : u.cs ≠ .asserted) (st : Status) : (afterTransfer st rest u).Inv := by
  obtain ⟨p, status, heq, hp⟩ := afterTransfer_eq st rest u
  have hsame := hs.trans (afterTransfer_host st rest u)
  have hl := h.latched.congr hsame
  have hrest : ∀ v ∈ rest, v ∈ operationTransfers i (afterTransfer st rest u) := fun v hv => by
    rw [operationTransfers_congr i hsame.cfg hsame.params (by rw [heq, ← hm])]
    exact h.suffix.subset (List.mem_cons_of_mem t hv)
  rw [heq] at hl hrest ⊢
  obtain rfl | ⟨v, hv, rfl⟩ := hp
  · exact inv_of_idle (hm ▸ hmem) hcs rfl
  · exact hl.inv_of_transfer (hm ▸ hmem) hcs (hrest v hv) rfl

/-- A line of a chip-select frame keeps the invariant. -/
theorem StandsAt.inv_tickFrame (h : StandsAt i t rest s) (hspi : s.cfg.transport = .spi4) (hinv : s.Inv) :
    (tickFrame t.pos t rest s s.pos.frameLine).Inv := by
  have hmem := hinv.1
  have hhost := tickFrame_host t.pos t rest s
  match hline : s.pos.frameLine with
  | none =>
    refine h.inv_of_frame (hhost none) rfl hspi hmem (line := .driven) rfl ?_
    exact iff_of_false (hinv.released hline) nofun
  | some .driven =>
    exact h.inv_of_frame (hhost (some .driven)) rfl hspi hmem (line := .selected) rfl (iff_of_true rfl rfl)
  | some .selected =>
    refine h.inv_of_frame (hhost (some .selected)) rfl hspi hmem (line := .written _) rfl (iff_of_true ?_ rfl)
    exact hinv.2.1.mpr (by rw [Pos.eq_frame_of_frameLine hline]; rfl)
  | some (.written st) =>
    exact h.inv_afterTransfer (u := s.driveCs .deasserted) ⟨rfl, rfl, rfl, rfl⟩ rfl hmem nofun st

end

/-- The converter goes on to a place inside the panel, or to the first transfer. -/
theorem bitPlace_cases {d : Descriptor} {p x : Nat} (hp : p < pages d) (hx : x < d.width) (b : Nat) :
    (∃ p' x' b', bitPlace d p x b = .xbm p' x' b' ∧ p' < pages d ∧ x' < d.width ∧ b' < 8) ∨
      bitPlace d p x b = .win .col 0 := by
  unfold bitPlace columnPlace pagePlace
  split_ifs with hb hx' hp'
  · exact .inl ⟨p, x, b, rfl, hp, hx, hb⟩
  · exact .inl ⟨p, x + 1, 0, rfl, hp, hx', by decide⟩
  · exact .inl ⟨p + 1, 0, 0, rfl, hp', by omega, by decide⟩
  · exact .inr rfl

theorem exists_transfer_at_firstPos (i : Instr) (s : State) :
    ∃ t ∈ operationTransfers i s, t.pos = firstPos (operationTransfers i s) := by
  obtain ⟨t, ts, hts⟩ := List.exists_cons_of_ne_nil (operationTransfers_ne_nil i s)
  rw [hts]
  exact ⟨t, List.mem_cons_self, rfl⟩

/-- A move of the converter keeps the invariant: it stores to memory by the write that keeps the canonical form. -/
theorem inv_tickXbm {xbm fb : BufRef} {p x b : Nat} {s : State} (hl : Latched (.loadXbm (some xbm) (some fb)) s)
    (hmem : Memory.wf s.mem) (hcs : s.cs ≠ .asserted) (hp : p < pages s.cfg) (hx : x < s.cfg.width) :
    (tickXbm xbm fb p x b s).Inv := by
  have heq : tickXbm xbm fb p x b s = { bitMove xbm fb p x s b with pos := bitPlace s.cfg p x (b + 1) } :=
    tickXbm_eq xbm fb p x b s s.pos
  have hsame := bitMove_same xbm fb p x s b
  have hl' := hl.converting hsame (bitPlace s.cfg p x (b + 1))
  have hmem' : Memory.wf (bitMove xbm fb p x s b).mem := by
    unfold bitMove
    split
    · exact hmem
    · exact Memory.write_wf _ _ _ hmem
  have hcs' : (bitMove xbm fb p x s b).cs ≠ .asserted := hsame.cs ▸ hcs
  rw [heq]
  obtain ⟨p', x', b', hpos, hp', hx', hb'⟩ | hpos := bitPlace_cases hp hx (b + 1)
  · rw [← hsame.cfg] at hp' hx'
    exact hl'.inv_of_xbm hmem' hcs' hpos hp' hx' hb'
  · obtain ⟨t, ht, htpos⟩ := exists_transfer_at_firstPos _ { bitMove xbm fb p x s b with
      pos := bitPlace s.cfg p x (b + 1) }
    refine hl'.inv_of_transfer hmem' hcs' ht (htpos.trans ?_)
    rw [operationTransfers, firstPos_loadFbTransfers, hpos]

theorem txSend_cs {tag : Tag} {bytes : List Byte} {s : State} (h : s.cfg.transport ≠ .spi4) :
    (txSend tag bytes s).2.cs = s.cs := by
  simp only [txSend]
  cases ht : s.cfg.transport with
  | spi4 => exact absurd ht h
  | _ => rfl

/-- Every move of the sequencer keeps the invariant. -/
theorem inv_of_tick {s u : State} (hinv : s.Inv) (h : tick s = .next u) : u.Inv := by
  obtain ⟨i, hl, hmoves⟩ := moves_of_tick h
  cases hmoves with
  | bit xbm fb p x b hi hpos hp hx hb hu =>
    subst hi hu
    exact inv_tickXbm hl hinv.1 (hinv.released (hpos ▸ rfl)) hp hx
  | line t rest hat hspi hu =>
    rw [hu]
    exact hat.inv_tickFrame hspi hinv
  | send t rest hat hspi hpos hu =>
    have hreleased := hinv.released (hpos ▸ Pos.frameLine_of_isTransfer hat.isTransfer)
    rw [hu]
    exact hat.inv_afterTransfer (txSend_host ..) (txSend_mem ..) hinv.1 (txSend_cs hspi ▸ hreleased) _

/-- A latched operation begins where the invariant holds. -/
theorem Latched.inv_beginOperation {i : Instr} {s : State} (hl : Latched i s) (hmem : Memory.wf s.mem)
    (hcs : s.cs ≠ .asserted) : (beginOperation i s).Inv := by
  have hl' : Latched i (beginOperation i s) := hl.congr ⟨rfl, rfl, rfl, rfl⟩
  obtain ⟨xbm, fb, rfl⟩ | ⟨hstart, _⟩ := hl.start_cases
  · obtain ⟨hp, hw⟩ := hl.panel_pos
    exact hl'.inv_of_xbm hmem hcs rfl hp hw (by decide)
  · obtain ⟨t, ht, hpos⟩ := exists_transfer_at_firstPos i s
    rw [← operationTransfers_congr i (s := s) (t := beginOperation i s) rfl rfl rfl] at ht
    exact hl'.inv_of_transfer hmem hcs ht (hpos.trans hstart.symm)

/-- Settles O51: the reset state is idle, its memory canonical and its chip select released. -/
theorem resetMeetsInvariant : Obligations.ResetMeetsInvariant :=
  inv_of_idle Memory.reset_wf nofun rfl

/-- Settles O52: an operation in one step is a run of the sequencer, and every move of the sequencer keeps the
invariant. -/
theorem stepKeepsInvariant : Obligations.StepKeepsInvariant := by
  intro s t hinv hstep
  have hmem := hinv.1
  have hreleased : s.pos = .idle → s.cs ≠ .asserted := fun hpos => hinv.released (hpos ▸ rfl)
  cases stepsTo_of_step hstep with
  | reset rest ht => exact ht ▸ inv_of_idle hmem nofun rfl
  | wait rest hpos ht => exact ht ▸ inv_of_idle hmem (hreleased hpos) hpos
  | configure d rest hpos hport ht => exact ht ▸ inv_of_idle hmem (hreleased hpos) hpos
  | store addr v rest hpos ht =>
    exact ht ▸ inv_of_idle (Memory.write_wf _ addr v hmem) (hreleased hpos) hpos
  | operate i r rest hpos hl hrun =>
    exact hrun.keeps (fun _ _ => inv_of_tick) (hl.inv_beginOperation hmem (hreleased hpos))
  | move rest htick => exact inv_of_tick (s := { s with port := rest }) hinv htick

/-! ## The descriptor -/

/-- Settles O27: no move of the sequencer writes the descriptor or the parameters, and of what the host presents only
a descriptor does. -/
theorem descriptorIsNeverWritten : Obligations.DescriptorIsNeverWritten := by
  intro s t hstep hport
  cases stepsTo_of_step hstep with
  | reset rest ht => exact ht ▸ ⟨rfl, rfl⟩
  | wait rest hpos ht => exact ht ▸ ⟨rfl, rfl⟩
  | configure d rest hpos hport' => exact absurd hport' (hport d rest)
  | store addr v rest hpos ht => exact ht ▸ ⟨rfl, rfl⟩
  | operate i r rest hpos hl hrun => exact ⟨hrun.host.cfg, hrun.host.params⟩
  | move rest htick => exact ⟨(tick_host htick).cfg, (tick_host htick).params⟩

end Sys2Proof.Machine
end

section
/-! The memory family (20_memory.md): the caller's memory (R50) and who acts on it, what the block reads of it and
within which bounds (R58), the pixel maps of the two buffers (R51, R52), the tags on the wire (R73), and the display
RAM of the reference sink after a transfer (R74). -/

namespace Sys2Proof.Machine

/-! ## The canonical form -/

/-- A canonical memory lists exactly the bytes that do not read as unlisted ones do. -/
theorem Memory.mem_iff_read {m : Memory} (h : Memory.wf m) (x : Nat) (v : Byte) :
    (x, v) ∈ m ↔ Memory.read m x = v ∧ v ≠ Memory.unlisted := by
  induction m with
  | nil => simp +contextual [eq_comm]
  | cons c rest ih =>
    obtain ⟨a, w⟩ := c
    obtain ⟨hpw, hval⟩ := h
    obtain ⟨hlow, hpw⟩ := List.pairwise_cons.mp hpw
    obtain ⟨hw, hval⟩ := List.forall_mem_cons.mp hval
    have ih := ih ⟨hpw, hval⟩
    by_cases hax : a = x
    · subst hax
      have hrest : (a, v) ∉ rest := fun hmem => (hlow _ hmem).ne rfl
      simp only [List.mem_cons, hrest, Memory.read, Prod.mk.injEq, true_and, or_false, if_true]
      constructor
      · rintro rfl
        exact ⟨rfl, hw⟩
      · exact fun ⟨hv, _⟩ => hv.symm
    · simp [Memory.read, hax, Ne.symm hax, ih]

/-- Settles O55: canonical memories with equal reads list the same bytes, each in the order of its address. -/
theorem canonicalMemoriesAreEqual : Obligations.CanonicalMemoriesAreEqual := by
  intro m n hm hn hread
  have hmem : ∀ c, c ∈ m ↔ c ∈ n := fun ⟨x, v⟩ => by
    rw [Memory.mem_iff_read hm, Memory.mem_iff_read hn, hread]
  exact List.Pairwise.eq_of_mem_iff (r := InvImage (· < ·) Prod.fst) hm.1 hn.1 hmem

/-! ## The host between operations -/

/-- Settles O50: an idle block takes what the host presents, and a store is a write of the caller's memory. -/
theorem hostActsBetweenOperations : Obligations.HostActsBetweenOperations := by
  intro s rest hpos
  refine ⟨fun d hport => step_idle hpos hport, fun a v hport hmem => ?_⟩
  exact ⟨Memory.write s.mem a v, step_idle hpos hport, Memory.write_wf _ a v hmem,
    Memory.read_write_same _ a v hmem, fun a' ha => Memory.read_write_other _ a a' v ha⟩

/-! ## What LOAD_FB reads -/

/-- Sending looks at no byte of the caller's memory. -/
theorem afterSending_withMem (us : List (Tag × List Byte)) (s : State) (mem : Memory) :
    ({ s with mem := mem } : State).afterSending us = { s.afterSending us with mem := mem } := by
  unfold State.afterSending
  cases s.cfg.transport <;> rfl

/-- Of the caller's memory the transfers of LOAD_FB depend on the first FB_SIZE bytes of the buffer alone. -/
theorem loadFbTransfers_withMem (buf : BufRef) (s : State) (mem : Memory)
    (h : ∀ i, i < fbSize s.cfg → Memory.read mem (buf.base + i) = Memory.read s.mem (buf.base + i)) :
    loadFbTransfers (some buf) { s with mem := mem } = loadFbTransfers (some buf) s := by
  have hdata : dataBytes (some buf) { s with mem := mem } = dataBytes (some buf) s :=
    List.map_congr_left fun i hi => h i (List.mem_range.mp hi)
  rw [loadFbTransfers, hdata]
  rfl

/-- Settles O28: both runs send the same transfers, and sending looks at no memory. -/
theorem loadFbReadsOnlyItsBuffer : Obligations.LoadFbReadsOnlyItsBuffer := by
  intro s t buf mem hexec hread
  obtain ⟨hready, hbuf, rfl⟩ := exec_next hexec
  have herr := hready.err_ne_zero
  rw [exec_ready (s := { s with mem := mem }) hready hbuf, operationOf_eq _ { s with mem := mem } herr,
    operationOf_eq _ s herr]
  simp only [prepared, operationTransfers, loadFbTransfers_withMem buf s mem hread, afterSending_withMem]

/-! ## The offsets of the converter -/

theorem State.Ready.legalGeometry {s : State} (h : s.Ready) : legalGeometry s.cfg = true := by
  obtain ⟨_, _, hg⟩ := h
  exact hg

/-- An offset in a buffer of `n` rows of `w` bytes lies inside it. -/
theorem rowOffset_lt {n w r c : Nat} (hr : r < n) (hc : c < w) : r * w + c < n * w := by
  calc r * w + c < r * w + w := Nat.add_lt_add_left hc _
    _ = (r + 1) * w := (Nat.succ_mul r w).symm
    _ ≤ n * w := Nat.mul_le_mul_right w hr

/-- The last byte of the last row is the last byte of the buffer. -/
theorem rowOffset_last {n w : Nat} (hn : 0 < n) (hw : 0 < w) : (n - 1) * w + (w - 1) = n * w - 1 := by
  obtain ⟨n, rfl⟩ := Nat.exists_eq_add_of_lt hn
  rw [Nat.zero_add, Nat.add_sub_cancel, Nat.succ_mul]
  omega

/-- The row an offset lies in. -/
theorem rowOffset_div {w r c : Nat} (hc : c < w) : (r * w + c) / w = r := by
  rw [Nat.mul_comm, Nat.mul_add_div (Nat.zero_lt_of_lt hc), Nat.div_eq_of_lt hc, Nat.add_zero]

/-- The place of an offset in its row. -/
theorem rowOffset_mod {w r c : Nat} (hc : c < w) : (r * w + c) % w = c := by
  rw [Nat.mul_comm, Nat.mul_add_mod, Nat.mod_eq_of_lt hc]

/-- Settles O35: both buffers are rows of equal length, the frame buffer one row for each page and the source bitmap
one for each row of pixels. -/
theorem converterStaysInBounds : Obligations.ConverterStaysInBounds := by
  intro d hg
  have hstride := xbmStride_eq hg
  have hpages := pages_mul hg
  have hpos : 0 < d.width ∧ 0 < d.height := by
    obtain ⟨hw, hh⟩ := legalGeometry_cases hg
    omega
  have hxbm : xbmSize d = d.height * xbmStride d := Nat.mul_comm ..
  rw [hxbm, fbSize_eq hg]
  refine ⟨fun p x b hp hx hb => ⟨rowOffset_lt (by omega) (by omega), rowOffset_lt hp hx⟩, ?_,
    rowOffset_last (by omega) hpos.1⟩
  have hlast : (d.width - 1) / 8 = xbmStride d - 1 := by omega
  rw [xbmOffset, hlast]
  exact rowOffset_last hpos.2 (by omega)

/-! ## The pixels -/

/-- The byte whose bits below `n` are those of `f`. -/
def packBits (f : Nat → Bool) (n : Nat) : Byte :=
  (List.range n).foldl (fun v b => v ||| (BitVec.ofBool (f b)).zeroExtend 8 <<< b) 0

theorem packBits_succ (f : Nat → Bool) (n : Nat) :
    packBits f (n + 1) = packBits f n ||| (BitVec.ofBool (f n)).zeroExtend 8 <<< n := by
  simp [packBits, List.range_succ]

theorem getLsbD_packBits (f : Nat → Bool) (n : Nat) {b : Nat} (hb : b < 8) :
    (packBits f n).getLsbD b = (decide (b < n) && f b) := by
  induction n with
  | zero => simp [packBits]
  | succ n ih =>
    rw [packBits_succ, BitVec.getLsbD_or, ih]
    rcases lt_trichotomy b n with h | rfl | h
    · simp [h, Nat.lt_succ_of_lt h]
    · simp [hb]
    · have hsub : b - n ≠ 0 := by omega
      simp [hsub, show ¬ b < n by omega, show ¬ b < n + 1 by omega]

theorem convertedByte_eq_packBits (xbm : BufRef) (s : State) (i : Nat) :
    s.convertedByte xbm i =
      packBits (fun b => s.xbmPixel xbm (i / s.cfg.width * 8 + b) (i % s.cfg.width)) 8 := rfl

/-- The bits of a converted byte are source pixels (44_xbm_converter.md R183). -/
theorem getLsbD_convertedByte (xbm : BufRef) (s : State) (i : Nat) {b : Nat} (hb : b < 8) :
    (s.convertedByte xbm i).getLsbD b = s.xbmPixel xbm (i / s.cfg.width * 8 + b) (i % s.cfg.width) := by
  rw [convertedByte_eq_packBits, getLsbD_packBits _ _ hb, decide_eq_true hb, Bool.true_and]

@[simp] theorem afterSending_cfg (us : List (Tag × List Byte)) (s : State) : (s.afterSending us).cfg = s.cfg := by
  unfold State.afterSending
  cases s.cfg.transport <;> rfl

@[simp] theorem afterSending_mem (us : List (Tag × List Byte)) (s : State) : (s.afterSending us).mem = s.mem := by
  unfold State.afterSending
  cases s.cfg.transport <;> rfl

/-- The check of LOAD_XBM's buffers finds nothing exactly when they are admitted (44_xbm_converter.md R181). -/
theorem checkXbm_eq_none_iff (d : Descriptor) (xbm fb : BufRef) :
    checkXbm d (some xbm) (some fb) = none ↔ XbmAdmitted d xbm fb := by
  simp only [checkXbm, XbmAdmitted, BufRef.disjoint, Bool.or_eq_true, Bool.not_eq_true', Bool.or_eq_false_iff,
    decide_eq_true_eq, decide_eq_false_iff_not]
  split
  · next hshort => exact iff_of_false nofun (by omega)
  · next hlong =>
    split
    · next hover => exact iff_of_false nofun (by omega)
    · next hapart => exact iff_of_true rfl (by omega)

/-- LOAD_XBM that answers a next state has converted the whole image and then sent. -/
theorem loadXbm_next {s t : State} {xbm fb : BufRef} (hmem : Memory.wf s.mem)
    (h : exec (.loadXbm (some xbm) (some fb)) s = .next t) :
    ConvertedTo xbm fb s (convert xbm fb s) (fbSize s.cfg) ∧ ∃ us, t = (convert xbm fb s).afterSending us := by
  obtain ⟨hready, hbufs, rfl⟩ := exec_next h
  have hadmitted := (checkXbm_eq_none_iff s.cfg xbm fb).mp hbufs
  exact ⟨convert_spec hmem hready.legalGeometry hadmitted, _, operationOf_eq _ s hready.err_ne_zero⟩

/-- Settles O37: the pixel at row `r` and column `c` is bit `r % 8` of the byte at page `r / 8` and column `c`. -/
theorem conversionKeepsPixels : Obligations.ConversionKeepsPixels := by
  intro s t xbm fb r c hmem hexec hr hc
  obtain ⟨hready, _, _⟩ := exec_next hexec
  have hg := hready.legalGeometry
  obtain ⟨hconv, us, rfl⟩ := loadXbm_next hmem hexec
  have hpage : r / 8 < pages s.cfg := by
    have := pages_mul hg
    omega
  have hi : r / 8 * s.cfg.width + c < fbSize s.cfg := fbSize_eq hg ▸ rowOffset_lt hpage hc
  rw [State.fbPixel, afterSending_cfg, afterSending_mem, hconv.same.cfg, hconv.done _ hi,
    getLsbD_convertedByte xbm s _ (Nat.mod_lt r (by decide)), rowOffset_div hc, rowOffset_mod hc,
    Nat.div_add_mod']

/-! ## The tags on the wire -/

/-- A run whose writes were all accepted adds the frames of its transfers to the trace, in order. -/
theorem runTransfers_trace (ts : List Transfer) (s : State) (h : s.cfg.transport ≠ .spi3)
    (ha : s.BusAccepts ts.length) :
    (runTransfers ts s).trace = s.trace ++ (unitsOf ts).flatMap fun u => frameEvents s.params s.cfg u 0 := by
  induction ts generalizing s with
  | nil => exact (List.append_nil _).symm
  | cons t ts ih =>
    obtain ⟨h0, hrest⟩ := (State.busAccepts_succ (t.tag, t.bytes) s _).mp ha
    rw [runTransfers_cons t ts s h, if_pos h0,
      ih { afterOne (t.tag, t.bytes) s with pos := t.pos } h hrest]
    simp [afterOne, h0, unitsOf]

/-- A frame is read as the tagged bytes it carries, whatever the level of the data/command pin was before it
(30_encoding.md R86, R87). -/
theorem readWire_frame (p : Params) {d : Descriptor} (hspi : d.transport ≠ .spi3) (hpin : d.csPin ≠ d.dcPin)
    (u : Tag × List Byte) (level : Option Level) (es : List Event) :
    ∃ level', readWire d.dcPin level (frameEvents p d u 0 ++ es) = tagged u ++ readWire d.dcPin level' es := by
  obtain ⟨tag, bytes⟩ := u
  cases ht : d.transport with
  | i2c => exact ⟨level, by cases tag <;> simp [frameEvents, ht, readWire, controlByte, tagged]⟩
  | spi4 => exact ⟨some (tagLevel tag), by cases tag <;> simp [frameEvents, ht, readWire, tagLevel, hpin, tagged]⟩
  | spi3 => exact absurd ht hspi

/-- The frames of a run are read as its tagged bytes. -/
theorem readWire_frames (p : Params) {d : Descriptor} (hspi : d.transport ≠ .spi3) (hpin : d.csPin ≠ d.dcPin)
    (us : List (Tag × List Byte)) (level : Option Level) :
    readWire d.dcPin level (us.flatMap fun u => frameEvents p d u 0) = us.flatMap tagged := by
  induction us generalizing level with
  | nil => rfl
  | cons u us ih =>
    obtain ⟨level', h⟩ := readWire_frame p hspi hpin u level (us.flatMap fun u => frameEvents p d u 0)
    rw [List.flatMap_cons, h, ih, List.flatMap_cons]

/-- Settles O56: an operation that succeeded made all its transfers, each read back from its frame. -/
theorem wireTagsReadBack : Obligations.WireTagsReadBack := by
  intro i s t hexec hst hpin
  obtain ⟨hready, _, rfl⟩ := exec_next hexec
  have hspi := operationOf_supported hready hst
  have hsame := prepared_same i s
  have hspi' : (prepared i s).cfg.transport ≠ .spi3 := hsame.cfg ▸ hspi
  have ha := (runTransfers_status_zero_iff _ _ hspi').mp hst
  refine ⟨_, _, ?_, ?_, readWire_frames s.params hspi hpin (unitsOf (operationTransfers i (prepared i s))) none⟩
  · rw [operationOf, runTransfers_trace _ _ hspi' ha, hsame.trace, hsame.params, hsame.cfg]
  · rw [operationOf, runTransfers_stream _ _ hspi' ha, hsame.stream]

/-! ## The commands the sink takes -/

/-- The sink takes a stream in two parts where it takes the first one. -/
theorem Sink.run_append {ts : List TaggedByte} {k k' : Sink} (h : Sink.run ts k = .ok k') (us : List TaggedByte) :
    Sink.run (ts ++ us) k = Sink.run us k' := by
  induction ts generalizing k with
  | nil =>
    cases h
    rfl
  | cons t ts ih =>
    simp only [List.cons_append, Sink.run] at h ⊢
    split at h
    · cases h
    · next hfeed => exact ih h

theorem Sink.run_singleton (t : TaggedByte) (k : Sink) : Sink.run [t] k = k.feed t := by
  simp only [Sink.run]
  cases k.feed t <;> rfl

theorem length_eq_of_fitsAll {ps : List BytePattern} {vs : List Byte} (h : fitsAll ps vs = true) :
    vs.length = ps.length := by
  induction ps generalizing vs with
  | nil => cases vs <;> simp_all [fitsAll]
  | cons p ps ih =>
    cases vs with
    | nil => cases h
    | cons v vs =>
      simp only [fitsAll, Bool.and_eq_true] at h
      exact congrArg (· + 1) (ih h.2)

section
variable {v : Byte} {row : CommandRow} {vs : List Byte}

/-- A command of the map with all its parameters is read as its setting (30_encoding.md R89). -/
theorem decode_command (hrow : findRow v = some row) (hfit : fitsAll row.params vs = true) :
    decode (v :: vs) = .ok (row.build v (vs.getD 0 0) (vs.getD 1 0), []) := by
  have hlen := length_eq_of_fitsAll hfit
  have htake : vs.take row.params.length = vs := List.take_of_length_le hlen.le
  simp [decode, hrow, htake, hlen, hfit]

/-- A command of the map that lacks parameters is not yet read (30_encoding.md R89). -/
theorem decode_truncated (hrow : findRow v = some row) (hlen : vs.length < row.params.length) :
    decode (v :: vs) = .error .truncated := by
  simp [decode, hrow, hlen]

/-- The sink holds a command whose parameters are still owed. -/
theorem Sink.run_held (hrow : findRow v = some row) (hlen : vs.length < row.params.length) {k : Sink}
    (hk : k.pending = []) :
    Sink.run ((v :: vs).map fun b => (.cmd, b)) k = .ok { k with pending := v :: vs } := by
  induction vs using List.reverseRecOn with
  | nil =>
    simp [Sink.run, Sink.feed, hk, decode_truncated hrow hlen]
  | append_singleton vs w ih =>
    rw [← List.cons_append, List.map_append, Sink.run_append (ih (by simp at hlen; omega))]
    simp [Sink.run, Sink.feed, decode_truncated hrow hlen]

/-- The sink reacts to a whole command of the map as to its setting (20_memory.md R72). -/
theorem Sink.run_command (hrow : findRow v = some row) (hfit : fitsAll row.params vs = true) {k : Sink}
    (hk : k.pending = []) :
    Sink.run ((v :: vs).map fun b => (.cmd, b)) k = k.apply (row.build v (vs.getD 0 0) (vs.getD 1 0)) := by
  have hdec := decode_command hrow hfit
  have hclear : { k with pending := [] } = k := by
    rw [← hk]
  induction vs using List.reverseRecOn with
  | nil => simp [Sink.run_singleton, Sink.feed, hk, hdec, hclear]
  | append_singleton vs w _ =>
    have hlen : vs.length < row.params.length := by simp [← length_eq_of_fitsAll hfit]
    rw [← List.cons_append, List.map_append, Sink.run_append (Sink.run_held hrow hlen hk)]
    simp only [List.map_cons, List.map_nil, Sink.run_singleton, Sink.feed, List.cons_append, hdec, hclear]

end

/-! ## The display RAM after a transfer -/

/-- The sink with the whole panel as its window, in Horizontal mode, the pointer at the first cell: what the commands
of LOAD_FB make of it (20_memory.md R72). -/
def Sink.windowed (d : Descriptor) (k : Sink) : Sink :=
  { k with
    colStart := 0, colStop := BitVec.ofNat 8 (d.width - 1), colPtr := 0
    pageStart := 0, pageStop := BitVec.ofNat 8 (pages d - 1), pagePtr := 0
    mode := .horizontal }

theorem encodeWindows_eq {d : Descriptor} (hg : legalGeometry d = true) :
    encode.encodeWindows d =
      [0x21, 0x00, BitVec.ofNat 8 (d.width - 1)] ++ ([0x22, 0x00, BitVec.ofNat 8 (pages d - 1)] ++ [0x20, 0x00]) := by
  have hcol : 0b0#1 ++ BitVec.ofNat 7 (d.width - 1) = BitVec.ofNat 8 (d.width - 1) := by
    obtain ⟨hw | hw, _⟩ := legalGeometry_cases hg <;> rw [hw] <;> rfl
  have hpage : 0b00000#5 ++ BitVec.ofNat 3 (d.height / 8 - 1) = BitVec.ofNat 8 (d.height / 8 - 1) := by
    obtain ⟨_, hh | hh | hh⟩ := legalGeometry_cases hg <;> rw [hh] <;> rfl
  rw [encode.encodeWindows, hcol, hpage]
  rfl

theorem fitsAll_any (a b : Byte) : fitsAll [.any, .any] [a, b] = true := by
  simp [fitsAll, BytePattern.fits, BytePattern.any]

theorem Sink.run_colWindow {k : Sink} (hk : k.pending = []) (stop : Byte) :
    Sink.run ([0x21, 0x00, stop].map fun v => (.cmd, v)) k =
      .ok { k with colStart := 0, colStop := stop, colPtr := 0 } := by
  rw [Sink.run_command rfl (fitsAll_any 0x00 stop) hk]
  simp [Sink.apply]

theorem Sink.run_pageWindow {k : Sink} (hk : k.pending = []) (stop : Byte) :
    Sink.run ([0x22, 0x00, stop].map fun v => (.cmd, v)) k =
      .ok { k with pageStart := 0, pageStop := stop, pagePtr := 0 } := by
  rw [Sink.run_command rfl (fitsAll_any 0x00 stop) hk]
  simp [Sink.apply]

/-- The sink takes the window commands of LOAD_FB, whatever its mode, windows and pointer were. -/
theorem Sink.run_windows {d : Descriptor} (hg : legalGeometry d = true) {k : Sink} (hk : k.pending = []) :
    Sink.run ((encode.encodeWindows d).map fun v => (.cmd, v)) k = .ok (k.windowed d) := by
  have hcols := Sink.run_colWindow hk (BitVec.ofNat 8 (d.width - 1))
  have hpages := Sink.run_pageWindow
    (k := { k with colStart := 0, colStop := BitVec.ofNat 8 (d.width - 1), colPtr := 0 }) hk
    (BitVec.ofNat 8 (pages d - 1))
  rw [encodeWindows_eq hg, List.map_append, List.map_append, Sink.run_append hcols, Sink.run_append hpages]
  have hmode : findRow 0x20 = some _ := rfl
  exact Sink.run_command hmode rfl hk

/-! `storeData` -/

@[simp] theorem Sink.storeData_ram (k : Sink) (v : Byte) :
    (k.storeData v).ram = Memory.write k.ram (Sink.ramAddr k.pagePtr k.colPtr) v := by
  simp only [Sink.storeData]
  split <;> rfl

@[simp] theorem Sink.storeData_mode (k : Sink) (v : Byte) : (k.storeData v).mode = k.mode := by
  simp only [Sink.storeData]
  split <;> rfl

@[simp] theorem Sink.storeData_colStart (k : Sink) (v : Byte) : (k.storeData v).colStart = k.colStart := by
  simp only [Sink.storeData]
  split <;> rfl

@[simp] theorem Sink.storeData_colStop (k : Sink) (v : Byte) : (k.storeData v).colStop = k.colStop := by
  simp only [Sink.storeData]
  split <;> rfl

@[simp] theorem Sink.storeData_pageStart (k : Sink) (v : Byte) : (k.storeData v).pageStart = k.pageStart := by
  simp only [Sink.storeData]
  split <;> rfl

@[simp] theorem Sink.storeData_pageStop (k : Sink) (v : Byte) : (k.storeData v).pageStop = k.pageStop := by
  simp only [Sink.storeData]
  split <;> rfl

@[simp] theorem Sink.storeData_colPtr (k : Sink) (v : Byte) :
    (k.storeData v).colPtr = if k.colPtr = k.colStop then k.colStart else k.colPtr + 1 := by
  simp only [Sink.storeData]
  split <;> rfl

@[simp] theorem Sink.storeData_pagePtr (k : Sink) (v : Byte) :
    (k.storeData v).pagePtr =
      if k.colPtr = k.colStop then if k.pagePtr = k.pageStop then k.pageStart else k.pagePtr + 1
      else k.pagePtr := by
  simp only [Sink.storeData]
  split <;> rfl

theorem toNat_ofNat8 {a : Nat} (h : a < 256) : (BitVec.ofNat 8 a).toNat = a :=
  (BitVec.toNat_ofNat a 8).trans (Nat.mod_eq_of_lt h)

theorem ofNat8_inj {a b : Nat} (ha : a < 256) (hb : b < 256) : BitVec.ofNat 8 a = BitVec.ofNat 8 b ↔ a = b := by
  rw [← BitVec.toNat_inj, toNat_ofNat8 ha, toNat_ofNat8 hb]

/-- Counting modulo `n`, and the carry: at the end of its period the remainder goes back to 0 and the quotient on by
one. -/
theorem succ_mod_div {n : Nat} (hn : 0 < n) (m : Nat) :
    (m + 1) % n = (if m % n = n - 1 then 0 else m % n + 1) ∧
      (m + 1) / n = (if m % n = n - 1 then m / n + 1 else m / n) := by
  have hlt := Nat.mod_lt m hn
  rw [and_comm, Nat.div_mod_unique hn]
  have hm := Nat.mod_add_div m n
  split
  · next h =>
    rw [Nat.mul_succ]
    omega
  · next h => omega

/-- A one-byte counter that goes back to 0 after `n - 1` counts modulo `n`. -/
theorem counter_succ {n : Nat} (hn : 0 < n) (hle : n ≤ 256) (m : Nat) :
    (if BitVec.ofNat 8 (m % n) = BitVec.ofNat 8 (n - 1) then 0 else BitVec.ofNat 8 (m % n) + 1) =
      BitVec.ofNat 8 ((m + 1) % n) := by
  have hlt := Nat.mod_lt m hn
  rw [(succ_mod_div hn m).1, apply_ite (BitVec.ofNat 8), BitVec.ofNat_add]
  simp only [ofNat8_inj (show m % n < 256 by omega) (show n - 1 < 256 by omega)]
  rfl

/-- The legal panels have fewer pages and columns than a byte can count (00_scope.md R7). -/
theorem panel_bounds {d : Descriptor} (hg : legalGeometry d = true) :
    0 < d.width ∧ d.width ≤ 256 ∧ 0 < pages d ∧ pages d ≤ 256 := by
  have hpages := pages_mul hg
  obtain ⟨hw, hh⟩ := legalGeometry_cases hg
  omega

/-- The sink's window is the panel, its mode Horizontal, and its pointer at cell number `n`, counted row by row and
from the start again after the last. -/
structure Sink.AtCell (d : Descriptor) (n : Nat) (k : Sink) : Prop where
  mode : k.mode = .horizontal
  colStart : k.colStart = 0
  colStop : k.colStop = BitVec.ofNat 8 (d.width - 1)
  pageStart : k.pageStart = 0
  pageStop : k.pageStop = BitVec.ofNat 8 (pages d - 1)
  colPtr : k.colPtr = BitVec.ofNat 8 (n % d.width)
  pagePtr : k.pagePtr = BitVec.ofNat 8 (n / d.width % pages d)

/-- A data byte moves the pointer on by one cell (20_memory.md R73). -/
theorem Sink.AtCell.storeData {d : Descriptor} (hg : legalGeometry d = true) {n : Nat} {k : Sink} (h : k.AtCell d n)
    (v : Byte) : (k.storeData v).AtCell d (n + 1) := by
  obtain ⟨hw, hw', hp, hp'⟩ := panel_bounds hg
  have hlt := Nat.mod_lt n hw
  refine ⟨by simp [h.mode], by simp [h.colStart], by simp [h.colStop], by simp [h.pageStart], by simp [h.pageStop],
    ?_, ?_⟩
  · rw [Sink.storeData_colPtr, h.colPtr, h.colStop, h.colStart, counter_succ hw hw']
  · rw [Sink.storeData_pagePtr, h.colPtr, h.colStop, h.pagePtr, h.pageStop, h.pageStart, counter_succ hp hp',
      (succ_mod_div hw n).2]
    simp only [ofNat8_inj (show n % d.width < 256 by omega) (show d.width - 1 < 256 by omega)]
    split <;> rfl

/-- The address of cell number `n` in the display RAM. -/
def cellAddr (d : Descriptor) (n : Nat) : Nat := n / d.width * 256 + n % d.width

/-- Different cells have different addresses. -/
theorem cellAddr_inj {d : Descriptor} (hg : legalGeometry d = true) {m n : Nat} (h : cellAddr d m = cellAddr d n) :
    m = n := by
  unfold cellAddr at h
  obtain ⟨hw | hw, _⟩ := legalGeometry_cases hg <;> rw [hw] at h <;> omega

theorem ramAddr_ofNat {p x : Nat} (hp : p < 256) (hx : x < 256) :
    Sink.ramAddr (BitVec.ofNat 8 p) (BitVec.ofNat 8 x) = p * 256 + x := by
  rw [Sink.ramAddr, toNat_ofNat8 hp, toNat_ofNat8 hx]

/-- A pointer at a cell of the panel addresses it. -/
theorem Sink.AtCell.ramAddr {d : Descriptor} (hg : legalGeometry d = true) {n : Nat} {k : Sink} (h : k.AtCell d n)
    (hn : n < fbSize d) : Sink.ramAddr k.pagePtr k.colPtr = cellAddr d n := by
  obtain ⟨hw, hw', hp, hp'⟩ := panel_bounds hg
  have hpage : n / d.width < pages d := Nat.div_lt_of_lt_mul (by rwa [Nat.mul_comm, ← fbSize_eq hg])
  have hcol := Nat.mod_lt n hw
  rw [h.pagePtr, h.colPtr, Nat.mod_eq_of_lt hpage, ramAddr_ofNat (by omega) (by omega), cellAddr]

/-- How far a transfer has come: the first `n` cells of the panel hold the data `f`, and the pointer is at the next
one. -/
structure Sink.FilledTo (d : Descriptor) (f : Nat → Byte) (n : Nat) (k : Sink) : Prop where
  wf : Memory.wf k.ram
  atCell : k.AtCell d n
  done : ∀ i, i < n → Memory.read k.ram (cellAddr d i) = f i

section
variable {d : Descriptor} {f : Nat → Byte}

/-- The window commands leave the pointer at the first cell. -/
theorem Sink.filledTo_windowed {k : Sink} (hk : Memory.wf k.ram) : (k.windowed d).FilledTo d f 0 where
  wf := hk
  atCell := ⟨rfl, rfl, rfl, rfl, rfl, by simp [Sink.windowed], by simp [Sink.windowed]⟩
  done := fun i hi => absurd hi (Nat.not_lt_zero i)

/-- A data byte fills the next cell (20_memory.md R73). -/
theorem Sink.FilledTo.storeData (hg : legalGeometry d = true) {n : Nat} {k : Sink} (h : k.FilledTo d f n)
    (hn : n < fbSize d) : (k.storeData (f n)).FilledTo d f (n + 1) := by
  refine ⟨?_, h.atCell.storeData hg _, fun i hi => ?_⟩
  · rw [Sink.storeData_ram]
    exact Memory.write_wf _ _ _ h.wf
  · rw [Sink.storeData_ram, h.atCell.ramAddr hg hn]
    by_cases hin : i = n
    · rw [hin, Memory.read_write_same _ _ _ h.wf]
    · rw [Memory.read_write_other _ _ _ _ (fun he => hin (cellAddr_inj hg he))]
      exact h.done i (by omega)

/-- The sink takes the data of a transfer and fills the panel with it. -/
theorem Sink.FilledTo.run (hg : legalGeometry d = true) {k : Sink} (h : k.FilledTo d f 0) {n : Nat}
    (hn : n ≤ fbSize d) :
    ∃ k', Sink.run (((List.range n).map f).map fun v => (.data, v)) k = .ok k' ∧ k'.FilledTo d f n := by
  induction n with
  | zero => exact ⟨k, rfl, h⟩
  | succ n ih =>
    obtain ⟨k', hrun, hfilled⟩ := ih (by omega)
    refine ⟨k'.storeData (f n), ?_, hfilled.storeData hg (by omega)⟩
    rw [List.range_succ, List.map_append, List.map_append, Sink.run_append hrun, List.map_singleton,
      List.map_singleton, Sink.run_singleton, Sink.feed, hfilled.atCell.mode]

/-- A cell of a filled panel holds the byte of its offset in the frame buffer (20_memory.md R51, R71). -/
theorem Sink.FilledTo.ramAt (hg : legalGeometry d = true) {k : Sink} (h : k.FilledTo d f (fbSize d)) {p x : Nat}
    (hp : p < pages d) (hx : x < d.width) :
    k.ramAt (BitVec.ofNat 8 p) (BitVec.ofNat 8 x) = f (p * d.width + x) := by
  obtain ⟨hw, hw', _, hp'⟩ := panel_bounds hg
  have hcell : cellAddr d (p * d.width + x) = p * 256 + x := by
    rw [cellAddr, rowOffset_div hx, rowOffset_mod hx]
  rw [Sink.ramAt, ramAddr_ofNat (by omega) (by omega), ← hcell]
  exact h.done _ (fbSize_eq hg ▸ rowOffset_lt hp hx)

end

/-- Settles O57: the window commands put the pointer at the first cell, and the data fill the panel cell by cell. -/
theorem loadFbFillsDisplayRam : Obligations.LoadFbFillsDisplayRam := by
  intro s t buf k hexec hst hram hk
  obtain ⟨hready, _, rfl⟩ := exec_next hexec
  have hg := hready.legalGeometry
  obtain ⟨hw, hw', hp, hp'⟩ := panel_bounds hg
  have hstart : (k.windowed s.cfg).FilledTo s.cfg (dataByte s buf) 0 := Sink.filledTo_windowed hram
  obtain ⟨k', hrun, hfilled⟩ := hstart.run hg le_rfl
  have hpanel := hfilled.atCell
  refine ⟨_, k', (operationOf_stream hready hst).trans (List.append_assoc ..),
    (Sink.run_append (Sink.run_windows hg hk) _).trans hrun, fun p x hp hx => ?_, hpanel.mode, ?_, ?_, ?_, ?_⟩
  · rw [hfilled.ramAt hg hp hx]
    cases buf <;> rfl
  · rw [hpanel.colStart]
    rfl
  · rw [hpanel.colStop, toNat_ofNat8 (by omega)]
  · rw [hpanel.pageStart]
    rfl
  · rw [hpanel.pageStop, toNat_ofNat8 (by omega)]

end Sys2Proof.Machine
end

section
/-! The encoding family (30_encoding.md). Decode and encode agree on the command stream (R89) because each setting's
command bytes are a command of one row of the opcode map, and the rows do not overlap (R88); the streams of INIT
and of the two loads are then read command by command (R96). Request and operation correspond by the selector (R97). -/

namespace Sys2Proof.Machine

/-! ## The opcode map -/

/-- In a list no two of whose elements pass a test, the one that passes it is found. -/
theorem find?_eq_some_of_pairwise {α : Type} {test : α → Bool} {a : α} {l : List α}
    (h : l.Pairwise fun b c => test b = true → test c = false) (hmem : a ∈ l) (ha : test a = true) :
    l.find? test = some a := by
  induction l with
  | nil => cases hmem
  | cons b l ih =>
    obtain ⟨hb, hl⟩ := List.pairwise_cons.mp h
    obtain rfl | hmem := List.mem_cons.mp hmem
    · exact List.find?_cons_of_pos ha
    · have hother : ¬ test b = true := fun hbt => Bool.eq_false_iff.mp (hb a hmem hbt) ha
      rw [List.find?_cons_of_neg hother, ih hl hmem]

/-- A first byte that fits a row of the opcode map belongs to that row (30_encoding.md R88). -/
theorem findRow_eq_some {row : CommandRow} {v : Byte} (hmem : row ∈ commandRows) (hfit : row.first.fits v = true) :
    findRow v = some row :=
  find?_eq_some_of_pairwise (commandRows_disjoint.imp fun h => BytePattern.not_both h v) hmem hfit

theorem fitsAll_singleton (q : BytePattern) (v : Byte) : fitsAll [q] [v] = q.fits v := Bool.and_true _

theorem fits_any (v : Byte) : BytePattern.any.fits v = true := by
  simp [BytePattern.fits, BytePattern.any]

/-- A six-bit operand stands below the opcode bits 01 in the first byte of SET_START_LINE, which reading masks away,
and below the bits 00 in a parameter (30_encoding.md R81, R82). -/
theorem fits_sixBits (x : BitVec 6) :
    BytePattern.fits ⟨0xC0, 0x40⟩ (0b01#2 ++ x) = true ∧ (0b01#2 ++ x) &&& 0x3F = 0b00#2 ++ x ∧
      BytePattern.fits ⟨0xC0, 0x00⟩ (0b00#2 ++ x) = true := by
  revert x
  decide

/-- The two bits of an addressing mode stand below six zeros (30_encoding.md R82). -/
theorem fits_twoBits (x : BitVec 2) : BytePattern.fits ⟨0xFC, 0x00⟩ (0b000000#6 ++ x) = true := by
  revert x
  decide

/-! ## The operands an encoding carries unchanged -/

theorem isBit_cases {v : Byte} (h : Byte.isBit v = true) : v = 0 ∨ v = 1 := by
  simpa [Byte.isBit] using h

theorem eq_of_fits6 {v : Byte} (h : Byte.fits6 v = true) : 0b00#2 ++ lowBits 6 v = v :=
  (mask6_eq v).symm.trans (beq_iff_eq.mp h)

theorem eq_of_fits2 {v : Byte} (h : Byte.fits2 v = true) : 0b000000#6 ++ lowBits 2 v = v :=
  (mask2_eq v).symm.trans (beq_iff_eq.mp h)

/-! ## The row of a setting -/

/-- The row of the opcode map at the place of a setting's selector: selector 4 selects the first setting
(30_encoding.md R95, R97). -/
def settingRow (i : Instr) : Option CommandRow := commandRows[(encodeRequest i).sel.toNat - 4]?

/-- The row `row` reads the bytes `v :: vs` as the setting `i`, where they carry its operands unchanged
(30_encoding.md R88, R89); whatever the bytes are, what it builds from them has the selector of `i`. -/
structure ReadsAs (row : CommandRow) (v : Byte) (vs : List Byte) (i : Instr) : Prop where
  place : settingRow i = some row
  first : row.first.fits v = true
  params : fitsAll row.params vs = true
  selector : ∀ a b c, (encodeRequest (row.build a b c)).sel = (encodeRequest i).sel
  build : i.wellFormed = true → row.build v (vs.getD 0 0) (vs.getD 1 0) = i

/-- Each setting's command bytes are a command of its row (30_encoding.md R81 to R85). -/
theorem exists_readsAs (p : Params) (d : Descriptor) {i : Instr} (hm : i.isMacro = false)
    (hraw : ∀ v, i ≠ .rawCmd v) :
    ∃ row v vs, encode p d i = v :: vs ∧ ReadsAs row v vs i := by
  cases i with
  | rawCmd byte => exact absurd rfl (hraw byte)
  | init => cases hm
  | loadFb buf => cases hm
  | loadXbm xbm fb => cases hm
  | displayOn v | setSegRemap v | setScanDir v | setInversion v | setWholeOn v =>
    refine ⟨_, _, _, rfl, rfl, ?_, rfl, fun _ _ _ => rfl, fun hw => ?_⟩
    · obtain ⟨_, hb⟩ | ⟨_, hb⟩ := truthBit_cases v <;> rw [hb] <;> rfl
    · obtain rfl | rfl := isBit_cases hw <;> rfl
  | setChargePump v =>
    refine ⟨_, _, _, rfl, rfl, rfl, ?_, fun _ _ _ => rfl, fun hw => ?_⟩
    · obtain ⟨_, hb⟩ | ⟨_, hb⟩ := truthBit_cases v <;> rw [hb] <;> rfl
    · obtain rfl | rfl := isBit_cases hw <;> rfl
  | setStartLine start =>
    obtain ⟨hfirst, hmask, _⟩ := fits_sixBits (lowBits 6 start)
    exact ⟨_, _, _, rfl, rfl, hfirst, rfl, fun _ _ _ => rfl,
      fun hw => congrArg Instr.setStartLine (hmask.trans (eq_of_fits6 hw))⟩
  | setOffset v | setMuxRatio v =>
    obtain ⟨_, _, hparam⟩ := fits_sixBits (lowBits 6 v)
    exact ⟨_, _, _, rfl, rfl, rfl, (fitsAll_singleton _ _).trans hparam, fun _ _ _ => rfl,
      fun hw => congrArg _ (eq_of_fits6 hw)⟩
  | setAddrMode mode =>
    have hparam := fits_twoBits (lowBits 2 mode)
    exact ⟨_, _, _, rfl, rfl, rfl, (fitsAll_singleton _ _).trans hparam, fun _ _ _ => rfl,
      fun hw => congrArg _ (eq_of_fits2 hw)⟩
  | setComPins v | setContrast v | setOscFreq v | setPrecharge v | setVcomh v =>
    exact ⟨_, _, _, rfl, rfl, rfl, (fitsAll_singleton _ _).trans (fits_any v), fun _ _ _ => rfl, fun _ => rfl⟩
  | setColWindow start stop | setPageWindow start stop =>
    exact ⟨_, _, _, rfl, rfl, rfl, fitsAll_any start stop, fun _ _ _ => rfl, fun _ => rfl⟩

/-- The first byte of a setting's command leads to its row. -/
theorem ReadsAs.findRow_eq {row : CommandRow} {v : Byte} {vs : List Byte} {i : Instr} (h : ReadsAs row v vs i) :
    findRow v = some row :=
  findRow_eq_some (List.mem_of_getElem? h.place) h.first

/-- Settles O5: two settings with the same first byte have the same row, and a row builds operations of one selector.
The count is by evaluation. -/
theorem firstByteIdentifiesSetting : Obligations.FirstByteIdentifiesSetting := by
  refine ⟨fun p d i j hi hj hiraw hjraw hhead => ?_, by decide⟩
  obtain ⟨row, v, vs, henc, hreads⟩ := exists_readsAs p d hi hiraw
  obtain ⟨row', v', vs', henc', hreads'⟩ := exists_readsAs p d hj hjraw
  have hv : v = v' := by simpa [henc, henc'] using hhead
  have hrow : row = row' := by
    have := hreads'.findRow_eq
    rw [← hv, hreads.findRow_eq] at this
    exact Option.some.inj this
  subst hrow
  exact (hreads.selector 0 0 0).symm.trans (hreads'.selector 0 0 0)

/-! ## The command stream -/

/-- A command of the map is read as its setting, whatever follows its parameters (30_encoding.md R89). -/
theorem decode_command_append {v : Byte} {row : CommandRow} {vs : List Byte} (hrow : findRow v = some row)
    (hfit : fitsAll row.params vs = true) (rest : List Byte) :
    decode (v :: vs ++ rest) = .ok (row.build v (vs.getD 0 0) (vs.getD 1 0), rest) := by
  simp [decode, hrow, ← length_eq_of_fitsAll hfit, hfit]

/-- Settles O4: a setting's command is read by its row, and a byte outside the map is RAW_CMD. -/
theorem commandStreamRoundTrip : Obligations.CommandStreamRoundTrip := by
  intro p d i rest hm hwf houtside
  by_cases hraw : ∃ v, i = .rawCmd v
  · obtain ⟨v, rfl⟩ := hraw
    simp [encode, decode, houtside v rfl]
  · obtain ⟨row, v, vs, henc, hreads⟩ := exists_readsAs p d hm (not_exists.mp hraw)
    rw [henc, decode_command_append hreads.findRow_eq hreads.params, hreads.build hwf]

/-- One command of a stream, and the rest of it (30_encoding.md R89). -/
theorem decodeStream_succ {n : Nat} {bytes rest : List Byte} {i : Instr} {is : List Instr}
    (h : decode bytes = .ok (i, rest)) (hrest : decodeStream n rest = .ok is) :
    decodeStream (n + 1) bytes = .ok (i :: is) := by
  cases bytes with
  | nil => cases h
  | cons v vs => simp only [decodeStream, h, hrest]

/-- The settings that the reader of a command stream gives back unchanged. -/
def WellFormedSetting (i : Instr) : Prop := i.isMacro = false ∧ (∀ v, i ≠ .rawCmd v) ∧ i.wellFormed = true

/-- The commands of a list of well-formed settings are read back one by one (30_encoding.md R89). -/
theorem decodeStream_encode (p : Params) (d : Descriptor) {is : List Instr} (h : ∀ i ∈ is, WellFormedSetting i) :
    decodeStream is.length (is.flatMap (encode p d)) = .ok is := by
  induction is with
  | nil => rfl
  | cons i is ih =>
    obtain ⟨⟨hm, hraw, hwf⟩, his⟩ := List.forall_mem_cons.mp h
    exact decodeStream_succ (commandStreamRoundTrip p d i _ hm hwf fun v hv => absurd hv (hraw v)) (ih his)

/-! ## INIT and the two loads -/

/-- The settings INIT expands to, in the order of its table (42_init_sequencer.md R150). -/
def initSettings (p : Params) (d : Descriptor) : List Instr :=
  [ .displayOn 0, .setOscFreq p.oscDefault, .setMuxRatio (BitVec.ofNat 8 (d.height - 1)), .setOffset 0,
    .setStartLine 0, .setChargePump (if p.chargePumpInit then 1 else 0), .setSegRemap 1, .setScanDir 1,
    .setComPins (if d.height = 64 then p.comPinsAlt else p.comPinsSeq), .setContrast p.contrastDefault,
    .setPrecharge p.prechargeDefault, .setVcomh p.vcomhDefault, .setWholeOn 0, .setAddrMode 0,
    .setInversion 0, .displayOn 1 ]

/-- The settings LOAD_FB and LOAD_XBM expand to before their data (43_frame_buffer_transfer.md R160). -/
def windowSettings (d : Descriptor) : List Instr :=
  [ .setColWindow 0 (BitVec.ofNat 8 (d.width - 1)), .setPageWindow 0 (BitVec.ofNat 8 (d.height / 8 - 1)),
    .setAddrMode 0 ]

theorem encode_init (p : Params) (d : Descriptor) :
    encode p d .init = (initSettings p d).flatMap (encode p d) := by
  have hmux : lowBits 6 (BitVec.ofNat 8 (d.height - 1)) = BitVec.ofNat 6 (d.height - 1) := by
    apply BitVec.eq_of_toNat_eq
    simp only [lowBits, BitVec.extractLsb'_toNat, BitVec.toNat_ofNat]
    omega
  have hpump : truthBit (if p.chargePumpInit then 1 else 0) = BitVec.ofBool p.chargePumpInit := by
    cases p.chargePumpInit <;> rfl
  simp only [initSettings, List.flatMap_cons, encode, hmux, hpump]
  rfl

theorem encodeWindows_eq_settings (p : Params) {d : Descriptor} (hg : legalGeometry d = true) :
    encode.encodeWindows d = (windowSettings d).flatMap (encode p d) := encodeWindows_eq hg

theorem initSettings_wellFormed (p : Params) {d : Descriptor} (hg : legalGeometry d = true) :
    ∀ i ∈ initSettings p d, WellFormedSetting i := by
  have hmux : Byte.fits6 (BitVec.ofNat 8 (d.height - 1)) = true := by
    obtain ⟨_, hh | hh | hh⟩ := legalGeometry_cases hg <;> rw [hh] <;> rfl
  have hpump : Byte.isBit (if p.chargePumpInit then 1#8 else 0#8) = true := by
    cases p.chargePumpInit <;> rfl
  have hconst : Byte.isBit 0#8 = true ∧ Byte.isBit 1#8 = true ∧ Byte.fits6 0#8 = true ∧ Byte.fits2 0#8 = true := by
    decide
  simp [initSettings, WellFormedSetting, Instr.isMacro, Instr.wellFormed, hmux, hpump, hconst]

theorem windowSettings_wellFormed (d : Descriptor) : ∀ i ∈ windowSettings d, WellFormedSetting i := by
  simp [windowSettings, WellFormedSetting, Instr.isMacro, Instr.wellFormed, Byte.fits2]

/-- Settles O6: the command bytes of INIT and of the two loads are those of the settings they expand to, which are read
back. -/
theorem macroStreamsReadAsExpansions : Obligations.MacroStreamsReadAsExpansions := by
  intro p d hg
  have hwindows : decodeStream 3 (encode.encodeWindows d) = .ok (windowSettings d) := by
    rw [encodeWindows_eq_settings p hg]
    exact decodeStream_encode p d (windowSettings_wellFormed d)
  refine ⟨?_, fun _ => hwindows, fun _ _ => hwindows⟩
  rw [encode_init]
  exact decodeStream_encode p d (initSettings_wellFormed p hg)

/-! ## The bytes a command sends -/

/-- The bus writes of a setting or of RAW_CMD are the command units of its encoding (40_transport_encoder.md R106,
41_command_protocol.md R120). -/
theorem unitsOf_operationTransfers {i : Instr} (hm : i.isMacro = false) (s : State) :
    unitsOf (operationTransfers i s) = commandUnits s.params.cmdGrouping (encode s.params s.cfg i) := by
  have hcommand : operationTransfers i s = cmdSeq s.params.cmdGrouping .cmd (commandBytes i) := by
    cases i with
    | init | loadFb | loadXbm => cases hm
    | _ => rfl
  rw [hcommand, unitsOf_cmdSeq, commandBytes_eq_encode _ _ hm]

/-- Settles O16: an admitted operation leaves the closed form of its bus writes. -/
theorem commandsSendTheirEncoding : Obligations.CommandsSendTheirEncoding := by
  intro i s hready hm
  have hsimple : bufferCheck s.cfg i = none ∧ prepared i s = s := by
    cases i with
    | loadFb | loadXbm => cases hm
    | _ => exact ⟨rfl, rfl⟩
  obtain ⟨hbuffers, hprepared⟩ := hsimple
  rw [exec_ready hready hbuffers, operationOf_eq i s hready.err_ne_zero, hprepared, unitsOf_operationTransfers hm]

/-! ## The request -/

/-- Settles O2, by the lemma on which a fetched word rests too. -/
theorem requestRoundTrip : Obligations.RequestRoundTrip := decodeRequest_encodeRequest

/-- A request names the operation it is decoded to (30_encoding.md R97). -/
theorem sel_of_decodeRequest {r : Request} {i : Instr} (h : decodeRequest r = .ok i) :
    (encodeRequest i).sel = r.sel := by
  have hsel : (encodeRequest i).sel.toNat = r.sel.toNat := by
    unfold decodeRequest at h
    repeat' split at h
    all_goals cases h
    all_goals exact Eq.symm ‹r.sel.toNat = _›
  exact BitVec.eq_of_toNat_eq hsel

/-- Selectors 21 to 31 select nothing (30_encoding.md R97). -/
theorem decodeRequest_reserved {r : Request} (h : 21 ≤ r.sel.toNat) : decodeRequest r = .error .noSuchOperation := by
  obtain ⟨n, hn⟩ := Nat.exists_eq_add_of_le' h
  rw [decodeRequest, hn]
  rfl

/-- Settles O3: what decodes is named by its selector, and no reserved selector decodes. -/
theorem reservedSelectorsRefused : Obligations.ReservedSelectorsRefused := by
  refine ⟨fun r i hdec => ⟨sel_of_decodeRequest hdec, ?_⟩, fun s r rest hpos hport hsel => ?_⟩
  · by_contra hgt
    rw [decodeRequest_reserved (by omega)] at hdec
    cases hdec
  · have hdec := decodeRequest_reserved hsel
    obtain hport | hport := hport <;> rw [step_idle hpos hport] <;>
      simp only [accept, startRequest, hdec, refusalOf]

/-! ## The words of the opcode table -/

/-- Settles O1, by evaluation of the decoder on each word. -/
theorem tableWordsDecode : Obligations.TableWordsDecode :=
  ⟨rfl, rfl, rfl, rfl, rfl, rfl, rfl, rfl, rfl⟩

end Sys2Proof.Machine
end

section
/-! The Transport Encoder family (40_transport_encoder.md): what one call of TxSend does under each transport (R101 to
R104), CmdSeq under both groupings (R106), and what those laws make of every operation: nothing is sent under 3-wire
SPI (R103), and the chip select is released on every exit under 4-wire SPI (R102). -/

namespace Sys2Proof.Machine

/-! ## One call of TxSend -/

/-- The one event of a transfer under I2C, with the control byte of its tag (40_transport_encoder.md R101). -/
theorem frameEvents_i2c (p : Params) {d : Descriptor} (h : d.transport = .i2c) (u : Tag × List Byte) (st : Status) :
    frameEvents p d u st = [.i2c d.i2cAddr ((if u.1 = .data then 0x40 else 0x00) :: u.2) st] := by
  obtain ⟨tag, bytes⟩ := u
  cases tag <;> simp [frameEvents, h]

/-- The four events of a transfer under 4-wire SPI, the release of the chip select last
(40_transport_encoder.md R102). -/
theorem frameEvents_spi4 (p : Params) {d : Descriptor} (h : d.transport = .spi4) (u : Tag × List Byte) (st : Status) :
    frameEvents p d u st =
      [ .pin d.dcPin (if u.1 = .data then .high else .low), .pin d.csPin p.csActiveLevel, .spi u.2 st,
        .pin d.csPin (if p.csActiveLevel = .low then .high else .low) ] := by
  obtain ⟨tag, bytes⟩ := u
  cases tag <;> cases hl : p.csActiveLevel <;> simp [frameEvents, h, hl]

/-- Settles O7, from the law of a supported call and the event of an I2C transfer. -/
theorem txSendI2cOneTransaction : Obligations.TxSendI2cOneTransaction := by
  intro tag bytes s h
  rw [txSend_supported tag bytes s (by simp [h]), frameEvents_i2c s.params h]
  simp [h]

/-- Settles O8, from the law of a supported call and the events of a 4-wire SPI transfer. -/
theorem txSendSpi4Frame : Obligations.TxSendSpi4Frame := by
  intro tag bytes s h
  rw [txSend_supported tag bytes s (by simp [h]), frameEvents_spi4 s.params h]
  cases tag <;> simp [h]

/-- Settles O10: the transport is either unsupported, with a status that is never 0, or the answer to the one write
decides. -/
theorem txSendStatusLaw : Obligations.TxSendStatusLaw := by
  intro tag bytes s herr
  by_cases h : s.cfg.transport = .spi3
  · simp [txSend_unsupported tag bytes s h, h, herr]
  · simp [txSend_supported tag bytes s h, h]

/-! ## CmdSeq -/

/-- CmdSeq leaves the closed form of its command units, whatever the positions it is made at. -/
theorem runTransfers_cmdSeq (g : CmdGrouping) (place : Nat → Pos) {bytes : List Byte} (hb : bytes ≠ []) {s : State}
    (herr : s.params.errUnsupported ≠ 0) :
    runTransfers (cmdSeq g place bytes) s = s.afterSending (commandUnits g bytes) := by
  have hne : cmdSeq g place bytes ≠ [] := by cases g <;> simp [cmdSeq, hb]
  obtain ⟨t, ts, hts⟩ := List.exists_cons_of_ne_nil hne
  rw [← unitsOf_cmdSeq g place bytes, hts, runTransfers_eq t ts s herr]

/-- Settles O11: the two groupings are the two cases of the command units. -/
theorem cmdSeqGroupings : Obligations.CmdSeqGroupings := fun place v vs _ herr =>
  ⟨runTransfers_cmdSeq .perByte place (List.cons_ne_nil v vs) herr,
    runTransfers_cmdSeq .perCommand place (List.cons_ne_nil v vs) herr⟩

/-! ## Operations under 3-wire SPI -/

/-- Under 3-wire SPI an operation that sends anything does nothing but end with ERR_UNSUPPORTED
(40_transport_encoder.md R103). -/
theorem afterSending_unsupported (us : List (Tag × List Byte)) {s : State} (h : s.cfg.transport = .spi3) :
    s.afterSending us = { s with pos := .idle, status := some s.params.errUnsupported } := by
  rw [State.afterSending, h]

/-- Settles O9: an operation is its preparation, which touches neither pins nor bus, and a run of transfers that ends
at the first one. -/
theorem unsupportedTransportSendsNothing : Obligations.UnsupportedTransportSendsNothing := by
  refine ⟨txSend_unsupported, fun i s t hspi hexec => ?_⟩
  obtain ⟨hready, _, rfl⟩ := exec_next hexec
  have hsame := prepared_same i s
  rw [operationOf_eq i s hready.err_ne_zero, afterSending_unsupported _ (hsame.cfg ▸ hspi)]
  exact ⟨congrArg (some ·.errUnsupported) hsame.params, hready.err_ne_zero, rfl, hsame.trace, hsame.stream, hsame.busIn,
    hsame.busCount, hsame.cs, hsame.dc⟩

/-! ## The chip select under 4-wire SPI -/

/-- The block, whose descriptor and parameters `s` holds, has left the chip select released in `t`, and nothing came
on the wire after the release (40_transport_encoder.md R102). -/
def SelectReleased (s t : State) : Prop :=
  t.cs = .deasserted ∧
  t.trace.getLast? = some (.pin s.cfg.csPin (if s.params.csActiveLevel = .low then .high else .low))

/-- One transfer releases the chip select, whatever its status. -/
theorem selectReleased_afterOne (u : Tag × List Byte) {s : State} (h : s.cfg.transport = .spi4) :
    SelectReleased s (afterOne u s) := by
  simp [SelectReleased, afterOne, h, frameEvents_spi4 s.params h]

/-- A run that makes at least one transfer ends with the chip select released: the last transfer it makes, accepted
or not, released it. -/
theorem selectReleased_runTransfers (t : Transfer) (ts : List Transfer) {s : State} (h : s.cfg.transport = .spi4) :
    SelectReleased s (runTransfers (t :: ts) s) := by
  induction ts generalizing t s with
  | nil =>
    rw [runTransfers_cons t [] s (by simp [h])]
    split <;> exact selectReleased_afterOne _ h
  | cons u us ih =>
    rw [runTransfers_cons t (u :: us) s (by simp [h])]
    split
    · exact ih u (s := { afterOne (t.tag, t.bytes) s with pos := t.pos }) h
    · exact selectReleased_afterOne _ h

/-- Settles O23: every operation makes at least one transfer. -/
theorem chipSelectReleasedOnEveryExit : Obligations.ChipSelectReleasedOnEveryExit := by
  intro i s t hspi hexec
  obtain ⟨_, _, rfl⟩ := exec_next hexec
  have hsame := prepared_same i s
  obtain ⟨u, us, hus⟩ := List.exists_cons_of_ne_nil (operationTransfers_ne_nil i (prepared i s))
  have hreleased := selectReleased_runTransfers u us (s := prepared i s) (hsame.cfg ▸ hspi)
  rwa [SelectReleased, hsame.cfg, hsame.params, ← hus] at hreleased

end Sys2Proof.Machine
end

section
/-! The Command Protocol family (41_command_protocol.md): each setting sends the command bytes of its rule (R121 to
R137) and does nothing else (R120). Every operation but LOAD_XBM is no more than a run of transfers, whose frame is that
of the closed form. -/

namespace Sys2Proof.Machine

/-! ## Operands -/

/-- A two-way operand selects the one byte where it is 0 and the other byte where it is not (30_encoding.md R85). -/
theorem select_eq (v x y : Byte) : select v x y = if v = 0 then y else x := by
  by_cases h : v = 0 <;> simp [select, isTrue, h]

/-- SET_SEG_REMAP reduces its operand to one bit before the OR (41_command_protocol.md R126). -/
theorem segRemapByte_eq (v : Byte) : 0xA0 ||| select v 1 0 = if v = 0 then 0xA0 else 0xA1 := by
  rw [select_eq]
  split <;> rfl

/-- A mask of the low `k` bits takes the remainder by `2 ^ k` (30_encoding.md R84). -/
theorem and_lowMask (k : Nat) (v : Byte) : v &&& BitVec.ofNat 8 (2 ^ k - 1) = BitVec.ofNat 8 (v.toNat % 2 ^ k) := by
  rw [← Nat.and_two_pow_sub_one_eq_mod, BitVec.ofNat_and, BitVec.ofNat_toNat, BitVec.setWidth_eq]

theorem mask6_eq_mod (v : Byte) : mask6 v = BitVec.ofNat 8 (v.toNat % 64) := and_lowMask 6 v

theorem mask2_eq_mod (v : Byte) : mask2 v = BitVec.ofNat 8 (v.toNat % 4) := and_lowMask 2 v

/-- The six bits of the start line lie below the opcode bit, so that joining the two adds them
(41_command_protocol.md R122). -/
theorem startLineByte_eq_add (v : Byte) : 0x40 ||| mask6 v = BitVec.ofNat 8 (0x40 + v.toNat % 64) := by
  have hadd : 0x40 + v.toNat % 64 = 0x40 ||| v.toNat % 64 :=
    Nat.two_pow_add_eq_or_of_lt (i := 6) (Nat.mod_lt _ (by decide)) 1
  rw [mask6_eq_mod, hadd, BitVec.ofNat_or]
  rfl

/-! ## The settings and RAW_CMD -/

/-- A ready block runs a setting, or RAW_CMD, to the closed form of the bytes of its rule (41_command_protocol.md
R120). -/
theorem exec_setting {i : Instr} {s : State} (h : s.Ready) (hm : i.isMacro = false) {bytes : List Byte}
    (hbytes : commandBytes i = bytes) :
    exec i s = .next (s.afterSending (commandUnits s.params.cmdGrouping bytes)) := by
  rw [commandsSendTheirEncoding i s h hm, ← commandBytes_eq_encode _ _ hm, hbytes]

/-- Settles O14: the bytes of each rule hold the operand itself. -/
theorem unmaskedSettings : Obligations.UnmaskedSettings := fun _ _ h =>
  ⟨exec_setting h rfl rfl, exec_setting h rfl rfl, exec_setting h rfl rfl, exec_setting h rfl rfl,
    exec_setting h rfl rfl, exec_setting h rfl rfl⟩

/-- Settles O15: the bytes of each rule hold both operands themselves. -/
theorem windowSettings_sendOperandsUnmasked : Obligations.WindowSettings := fun _ _ _ h =>
  ⟨exec_setting h rfl rfl, exec_setting h rfl rfl⟩

/-- Settles O13: each mask is a remainder. -/
theorem maskedSettings : Obligations.MaskedSettings := fun _ a h =>
  ⟨exec_setting h rfl (congrArg (fun b => [b]) (startLineByte_eq_add a)),
    exec_setting h rfl (congrArg (fun b => [0xD3, b]) (mask6_eq_mod a)),
    exec_setting h rfl (congrArg (fun b => [0x20, b]) (mask2_eq_mod a)),
    exec_setting h rfl (congrArg (fun b => [0xA8, b]) (mask6_eq_mod a))⟩

/-- Settles O12: each operand selects one of two bytes. -/
theorem twoWaySettings : Obligations.TwoWaySettings := fun _ a h =>
  ⟨exec_setting h rfl (congrArg (fun b => [b]) (select_eq a 0xAF 0xAE)),
    exec_setting h rfl (congrArg (fun b => [0x8D, b]) (select_eq a 0x14 0x10)),
    exec_setting h rfl (congrArg (fun b => [b]) (segRemapByte_eq a)),
    exec_setting h rfl (congrArg (fun b => [b]) (select_eq a 0xC8 0xC0)),
    exec_setting h rfl (congrArg (fun b => [b]) (select_eq a 0xA7 0xA6)),
    exec_setting h rfl (congrArg (fun b => [b]) (select_eq a 0xA5 0xA4))⟩

/-! ## The frame of a run of transfers -/

/-- Sending leaves the descriptor, the parameters, the latched request and the port alone. -/
theorem afterSending_host (us : List (Tag × List Byte)) (s : State) : SameHost s (s.afterSending us) := by
  unfold State.afterSending
  cases s.cfg.transport <;> exact ⟨rfl, rfl, rfl, rfl⟩

@[simp] theorem afterSending_acc (us : List (Tag × List Byte)) (s : State) : (s.afterSending us).acc = s.acc := by
  unfold State.afterSending
  cases s.cfg.transport <;> rfl

/-- Only 4-wire SPI drives the pins (10_state.md R24). -/
theorem afterSending_pins (us : List (Tag × List Byte)) {s : State} (h : s.cfg.transport ≠ .spi4) :
    (s.afterSending us).cs = s.cs ∧ (s.afterSending us).dc = s.dc := by
  unfold State.afterSending
  cases ht : s.cfg.transport with
  | i2c | spi3 => exact ⟨rfl, rfl⟩
  | spi4 => exact absurd ht h

/-- Only LOAD_XBM does anything before its transfers (44_xbm_converter.md R175). -/
theorem prepared_nonConverting {i : Instr} (h : ∀ xbm fb, i ≠ .loadXbm xbm fb) (s : State) : prepared i s = s := by
  cases i with
  | loadXbm xbm fb => exact absurd rfl (h xbm fb)
  | _ => rfl

/-- An operation that does not convert leaves the closed form of its transfers. -/
theorem exec_nonConverting {i : Instr} {s t : State} (h : ∀ xbm fb, i ≠ .loadXbm xbm fb) (hexec : exec i s = .next t) :
    t = s.afterSending (unitsOf (operationTransfers i s)) := by
  obtain ⟨hready, _, rfl⟩ := exec_next hexec
  rw [operationOf_eq i s hready.err_ne_zero, prepared_nonConverting h]

/-- Settles O25: an operation that does not convert only sends. -/
theorem nonConvertingFrame : Obligations.NonConvertingFrame := by
  intro i s t hi hexec
  obtain rfl := exec_nonConverting hi hexec
  have hhost := afterSending_host (unitsOf (operationTransfers i s)) s
  exact ⟨hhost.cfg, hhost.params, hhost.req, afterSending_acc _ s, hhost.port,
    fun a => by rw [afterSending_mem], afterSending_pins _⟩

end Sys2Proof.Machine
end

section
/-! The Init Sequencer family (42_init_sequencer.md): INIT leaves the closed form of its table (R150 to R152), makes one
bus write for each unit of the table (R154), and the settings it expands to, taken one by one by the reference sink,
settle the target (R153). -/

namespace Sys2Proof.Machine

/-! ## The table -/

/-- Settles O17: INIT is the run of its transfers, whose bus writes are those of the table. -/
theorem initSendsItsTable : Obligations.InitSendsItsTable := by
  intro s hready
  have hunits : unitsOf (operationTransfers .init s) = initUnits s.params s.cfg.height :=
    unitsOf_initTransfers s hready.legalGeometry
  have hprepared : prepared .init s = s := rfl
  rw [exec_ready hready rfl, operationOf_eq .init s hready.err_ne_zero, hprepared, hunits]

/-! ## How many writes and events a successful operation makes -/

/-- A run whose writes were all accepted made one write for each of its transfers. -/
theorem runTransfers_busCount (ts : List Transfer) (s : State) (h : s.cfg.transport ≠ .spi3)
    (ha : s.BusAccepts ts.length) : (runTransfers ts s).busCount = s.busCount + ts.length := by
  induction ts generalizing s with
  | nil => rfl
  | cons t ts ih =>
    obtain ⟨h0, hrest⟩ := (State.busAccepts_succ (t.tag, t.bytes) s _).mp ha
    rw [runTransfers_cons t ts s h, if_pos h0,
      ih { afterOne (t.tag, t.bytes) s with pos := t.pos } h hrest,
      List.length_cons, Nat.add_comm ts.length, ← Nat.add_assoc]
    rfl

/-- The events of one bus write: the transaction under I2C, the four lines of the chip-select frame under 4-wire SPI
(40_transport_encoder.md R101, R102). -/
def eventsPerWrite : Transport → Nat
  | .spi4 => 4
  | _ => 1

theorem length_frameEvents (p : Params) {d : Descriptor} (h : d.transport ≠ .spi3) (u : Tag × List Byte)
    (st : Status) : (frameEvents p d u st).length = eventsPerWrite d.transport := by
  cases ht : d.transport with
  | i2c => rw [frameEvents_i2c p ht]; rfl
  | spi4 => rw [frameEvents_spi4 p ht]; rfl
  | spi3 => exact absurd ht h

/-- An operation that ends with status 0 made one bus write for each of its transfers, with the events of each. -/
theorem operationOf_counts {i : Instr} {s : State} (h : s.Ready) (hst : (operationOf i s).status = some 0) :
    (operationOf i s).busCount = s.busCount + (operationTransfers i (prepared i s)).length ∧
    (operationOf i s).trace.length = s.trace.length +
      (operationTransfers i (prepared i s)).length * eventsPerWrite s.cfg.transport := by
  have hsame := prepared_same i s
  have hspi := operationOf_supported h hst
  have hspi' : (prepared i s).cfg.transport ≠ .spi3 := hsame.cfg ▸ hspi
  have ha := (runTransfers_status_zero_iff _ _ hspi').mp hst
  constructor
  · rw [operationOf, runTransfers_busCount _ _ hspi' ha, hsame.busCount]
  · rw [operationOf, runTransfers_trace _ _ hspi' ha, hsame.trace, hsame.params, hsame.cfg]
    simp [length_frameEvents _ hspi, unitsOf, Function.comp_def]

/-- The bus writes of INIT: one for each of the 25 bytes of its table, or one for each of the 16 sequences. -/
def initWrites : CmdGrouping → Nat
  | .perByte => 25
  | .perCommand => 16

theorem length_initTransfers (s : State) : (initTransfers s).length = initWrites s.params.cmdGrouping := by
  unfold initTransfers
  cases s.params.cmdGrouping <;> rfl

/-- Settles O32: the count of INIT's transfers, with the events of each. -/
theorem initWriteCount : Obligations.InitWriteCount := by
  intro s t hexec hst
  obtain ⟨hready, _, rfl⟩ := exec_next hexec
  have hlength : (operationTransfers .init (prepared .init s)).length = initWrites s.params.cmdGrouping :=
    length_initTransfers s
  have hcounts := operationOf_counts hready hst
  rw [hlength] at hcounts
  exact hcounts

/-! ## What the sink makes of a list of settings -/

/-- No setting leaves the sink in the middle of a command. -/
theorem Sink.apply_pending {k k' : Sink} {i : Instr} (h : k.apply i = .ok k') : k'.pending = k.pending := by
  unfold Sink.apply at h
  repeat' split at h
  all_goals cases h
  all_goals rfl

/-- The sink reacts to the command bytes of a well-formed setting as to the setting (20_memory.md R72). -/
theorem Sink.run_setting (p : Params) (d : Descriptor) {i : Instr} (hi : WellFormedSetting i) {k : Sink}
    (hk : k.pending = []) : Sink.run ((encode p d i).map fun v => (.cmd, v)) k = k.apply i := by
  obtain ⟨hm, hraw, hwf⟩ := hi
  obtain ⟨row, v, vs, henc, hreads⟩ := exists_readsAs p d hm hraw
  rw [henc, Sink.run_command hreads.findRow_eq hreads.params hk, hreads.build hwf]

/-- The sink takes the commands of a list of well-formed settings one setting after the other. -/
theorem Sink.run_settings (p : Params) (d : Descriptor) {is : List Instr} (his : ∀ i ∈ is, WellFormedSetting i)
    {k k' : Sink} (hk : k.pending = []) (h : is.foldlM Sink.apply k = .ok k') :
    Sink.run ((is.flatMap (encode p d)).map fun v => (.cmd, v)) k = .ok k' := by
  induction is generalizing k with
  | nil => exact h
  | cons i is ih =>
    obtain ⟨hi, his⟩ := List.forall_mem_cons.mp his
    rw [List.foldlM_cons] at h
    cases happly : k.apply i with
    | error e =>
      rw [happly] at h
      cases h
    | ok k₁ =>
      rw [happly] at h
      rw [List.flatMap_cons, List.map_append, Sink.run_append ((Sink.run_setting p d hi hk).trans happly)]
      exact ih his ((Sink.apply_pending happly).trans hk) h

/-- The target after INIT (42_init_sequencer.md R153). -/
def Sink.initialized (p : Params) (d : Descriptor) (k : Sink) : Sink :=
  { k with
    displayOn := true
    oscFreq := p.oscDefault
    muxRatio := BitVec.ofNat 8 (d.height - 1)
    offset := 0
    startLine := 0
    chargePump := p.chargePumpInit
    segRemap := true
    scanBackward := true
    comPins := if d.height = 64 then p.comPinsAlt else p.comPinsSeq
    contrast := p.contrastDefault
    precharge := p.prechargeDefault
    vcomh := p.vcomhDefault
    wholeOn := false
    mode := .horizontal
    inverse := false }

/-- The settings of INIT's table, one after the other, settle the target. -/
theorem foldlM_apply_initSettings (p : Params) (d : Descriptor) (k : Sink) :
    (initSettings p d).foldlM Sink.apply k = .ok (k.initialized p d) := by
  have hpump : ((if p.chargePumpInit then 1 else 0 : Byte) != 0) = p.chargePumpInit := by
    cases p.chargePumpInit <;> rfl
  calc (initSettings p d).foldlM Sink.apply k
      = .ok { k.initialized p d with chargePump := (if p.chargePumpInit then 1 else 0 : Byte) != 0 } := rfl
    _ = .ok (k.initialized p d) := by rw [hpump]; rfl

/-- Settles O58: INIT delivers the commands of its settings, which the sink takes one by one. -/
theorem initSettlesTarget : Obligations.InitSettlesTarget := by
  intro s t k hexec hst hk
  obtain ⟨hready, _, rfl⟩ := exec_next hexec
  refine ⟨(encode s.params s.cfg .init).map fun v => (.cmd, v),
    (operationOf_stream hready hst).trans (List.append_nil _), ?_⟩
  rw [encode_init]
  exact Sink.run_settings s.params s.cfg (initSettings_wellFormed s.params hready.legalGeometry) hk
    (foldlM_apply_initSettings s.params s.cfg k)

end Sys2Proof.Machine
end

section
/-! The frame buffer transfer family (43_frame_buffer_transfer.md): LOAD_FB leaves the closed form of its windows and
its data (R160 to R164), a null buffer being zeros (R163); it makes one bus write for each chunk, and their number is a
ceiling (R168); and how the data are cut in chunks changes no byte delivered (R165), which for LOAD_XBM says that the
conversion looks at no parameter. -/

namespace Sys2Proof.Machine

/-! ## LOAD_FB in closed form -/

theorem checkFb_eq_none_iff (d : Descriptor) (buf : BufRef) : checkFb d (some buf) = none ↔ FbAdmitted d buf := by
  simp [checkFb, FbAdmitted]

/-- LOAD_FB that nothing refuses leaves the closed form of its windows and its data. -/
theorem exec_loadFb {s : State} (h : s.Ready) {buf : Option BufRef} (hc : checkFb s.cfg buf = none) :
    exec (.loadFb buf) s = .next (s.afterSending (loadUnits s.params s.cfg (dataBytes buf s))) := by
  have hlaunch : exec (.loadFb buf) s = .next (loadFb buf s) := launch_ready h hc (loadFb buf)
  rw [hlaunch, loadFb_eq buf s h.err_ne_zero]

/-- Settles O18: the data are the buffer's bytes, or FB_SIZE zeros. -/
theorem loadFbSendsWindowsAndData : Obligations.LoadFbSendsWindowsAndData := by
  intro s hready
  constructor
  · rw [exec_loadFb hready rfl, dataBytes_none]
    rfl
  · intro buf hadmitted
    rw [exec_loadFb hready ((checkFb_eq_none_iff _ _).mpr hadmitted), dataBytes_some]
    rfl

/-! ## The null buffer -/

/-- A buffer whose first FB_SIZE bytes are zeros holds the data of a null buffer (43_frame_buffer_transfer.md R163). -/
theorem dataBytes_none_eq_some {s : State} {buf : BufRef}
    (hzero : ∀ i, i < fbSize s.cfg → Memory.read s.mem (buf.base + i) = 0x00) :
    dataBytes none s = dataBytes (some buf) s :=
  List.map_congr_left fun i hi => (hzero i (List.mem_range.mp hi)).symm

/-- Settles O29: both runs send the same data. -/
theorem nullBufferEqualsZeroBuffer : Obligations.NullBufferEqualsZeroBuffer := by
  intro s buf hready hadmitted hzero
  rw [exec_loadFb hready rfl, exec_loadFb hready ((checkFb_eq_none_iff _ _).mpr hadmitted),
    dataBytes_none_eq_some hzero]

/-! ## The number of bus writes -/

/-- The chunks of `n` bytes are the first one and those of the `n - k` bytes after it. -/
theorem ceil_sub_succ {n k : Nat} (hn : 0 < n) (hk : 1 ≤ k) : (n - k + k - 1) / k + 1 = (n + k - 1) / k := by
  have hlast : (n - k + k - 1) / k = (n - 1) / k := by
    obtain hshort | hfull := Nat.lt_or_ge n k
    · rw [Nat.div_eq_of_lt (by omega), Nat.div_eq_of_lt (by omega)]
    · rw [Nat.sub_add_cancel hfull]
  calc (n - k + k - 1) / k + 1 = (n - 1 + k) / k := by rw [hlast, Nat.add_div_right _ hk]
    _ = (n + k - 1) / k := by rw [Nat.sub_add_comm hn]

/-- Every piece but the last is full, so their number is the length over `k`, rounded up
(43_frame_buffer_transfer.md R164, R168). -/
theorem length_pieces {k : Nat} (hk : 1 ≤ k) {fuel : Nat} {bytes : List Byte} (hfuel : bytes.length ≤ fuel) :
    (pieces k fuel bytes).length = (bytes.length + k - 1) / k := by
  have hempty : (0 + k - 1) / k = 0 := Nat.div_eq_of_lt (by omega)
  induction fuel generalizing bytes with
  | zero => rw [Nat.le_zero.mp hfuel, hempty, pieces, List.length_nil]
  | succ fuel ih =>
    rw [pieces]
    split
    · next hnil => rw [List.length_nil, List.length_eq_zero_iff.mpr hnil, hempty]
    · next hne =>
      have hpos := List.length_pos_of_ne_nil hne
      have hdrop : (bytes.drop k).length = bytes.length - k := List.length_drop
      rw [List.length_cons, ih (by omega), hdrop, ceil_sub_succ hpos hk]

/-- The data phase makes one bus write for each chunk. -/
theorem length_streamTransfers {k : Nat} (hk : 1 ≤ k) (bytes : List Byte) :
    (streamTransfers k bytes).length = (bytes.length + k - 1) / k := by
  calc (streamTransfers k bytes).length = (unitsOf (streamTransfers k bytes)).length := (List.length_map _).symm
    _ = (pieces k bytes.length bytes).length := by rw [unitsOf_streamTransfers, dataUnits, List.length_map]
    _ = (bytes.length + k - 1) / k := length_pieces hk le_rfl

@[simp] theorem length_dataBytes (buf : Option BufRef) (s : State) : (dataBytes buf s).length = fbSize s.cfg := by
  simp [dataBytes]

/-- The bus writes of the three command sequences: one for each of their 8 bytes, or one for each sequence. -/
def windowWrites : CmdGrouping → Nat
  | .perByte => 8
  | .perCommand => 3

theorem length_windowTransfers (s : State) : (windowTransfers s).length = windowWrites s.params.cmdGrouping := by
  unfold windowTransfers
  cases s.params.cmdGrouping <;> rfl

/-- Settles O33: the command writes and one write for each chunk of FB_SIZE bytes. -/
theorem loadFbWriteCount : Obligations.LoadFbWriteCount := by
  intro s t buf hexec hst
  obtain ⟨hready, _, rfl⟩ := exec_next hexec
  have hlength : (loadFbTransfers buf s).length = windowWrites s.params.cmdGrouping +
      (fbSize s.cfg + maxChunk s.params s.cfg.transport - 1) / maxChunk s.params s.cfg.transport := by
    rw [loadFbTransfers, List.length_append, length_windowTransfers,
      length_streamTransfers (hready.maxChunk_pos _), length_dataBytes]
  obtain ⟨hwrites, _⟩ := operationOf_counts hready hst
  calc (operationOf (.loadFb buf) s).busCount
      = s.busCount + (loadFbTransfers buf s).length := hwrites
    _ = _ := by rw [hlength, ← Nat.add_assoc]; rfl

/-! ## Chunks -/

/-- Two states agree on all that the conversion and the data phase read: the descriptor and the caller's memory. -/
structure SameImage (s t : State) : Prop where
  cfg : t.cfg = s.cfg
  mem : t.mem = s.mem

theorem SameImage.convertColumn {s t : State} (h : SameImage s t) (xbm fb : BufRef) (p x : Nat) :
    SameImage (convertColumn xbm fb p x s) (convertColumn xbm fb p x t) where
  cfg := by rw [(convertColumn_same xbm fb p x t).cfg, (convertColumn_same xbm fb p x s).cfg, h.cfg]
  mem := by
    have hbyte : columnByte xbm p x t = columnByte xbm p x s :=
      columnByte_congr xbm p x h.cfg fun _ _ => by rw [h.mem]
    rw [convertColumn_mem, convertColumn_mem, hbyte, h.cfg, h.mem]

theorem SameImage.convertPage {s t : State} (h : SameImage s t) (xbm fb : BufRef) (p : Nat) :
    SameImage (convertPage xbm fb p s) (convertPage xbm fb p t) := by
  unfold Machine.convertPage
  rw [h.cfg]
  exact List.foldl_rel h fun x _ _ _ hst => hst.convertColumn xbm fb p x

theorem SameImage.convert {s t : State} (h : SameImage s t) (xbm fb : BufRef) :
    SameImage (convert xbm fb s) (convert xbm fb t) := by
  unfold Machine.convert
  rw [h.cfg]
  exact List.foldl_rel h fun p _ _ _ hst => hst.convertPage xbm fb p

theorem SameImage.prepared {s t : State} (h : SameImage s t) (i : Instr) :
    SameImage (prepared i s) (prepared i t) := by
  unfold Machine.prepared
  split
  · exact h.convert _ _
  · exact h

theorem SameImage.dataBytes_eq {s t : State} (h : SameImage s t) (buf : Option BufRef) :
    dataBytes buf t = dataBytes buf s := by
  have hbyte : dataByte t buf = dataByte s buf := by
    funext i
    cases buf with
    | none => rfl
    | some buf => simp only [dataByte, State.memRead, h.mem]
  rw [dataBytes, dataBytes, h.cfg, hbyte]

/-- The data an operation sends depend on the descriptor and the caller's memory alone. -/
theorem SameImage.dataOf_eq {s t : State} (h : SameImage s t) (i : Instr) :
    dataOf i (Machine.prepared i t) = dataOf i (Machine.prepared i s) := by
  cases i with
  | loadFb buf => exact h.dataBytes_eq buf
  | loadXbm xbm fb => exact (h.prepared (.loadXbm xbm fb)).dataBytes_eq fb
  | _ => rfl

/-- The same block with other chunk sizes. -/
def State.rechunked (m n : Nat) (s : State) : State :=
  { s with params := { s.params with maxChunkI2c := m, maxChunkSpi := n } }

theorem sameImage_rechunked (m n : Nat) (s : State) : SameImage s (s.rechunked m n) := ⟨rfl, rfl⟩

/-- No operation's command bytes depend on the chunk sizes. -/
theorem encode_rechunked (m n : Nat) (i : Instr) (s : State) :
    encode (s.rechunked m n).params (s.rechunked m n).cfg i = encode s.params s.cfg i := by
  cases i <;> rfl

/-- Settles O30: both runs deliver the encoding and the data, which depend on no chunk size. -/
theorem chunkingTransparent : Obligations.ChunkingTransparent := by
  intro i s t u m n ht hu hst hsu
  obtain ⟨hready, _, rfl⟩ := exec_next ht
  obtain ⟨hready', _, rfl⟩ := exec_next (s := s.rechunked m n) hu
  rw [operationOf_stream hready hst, operationOf_stream hready' hsu, (sameImage_rechunked m n s).dataOf_eq i,
    encode_rechunked]
  rfl

end Sys2Proof.Machine
end

section
/-! The XBM converter family (44_xbm_converter.md): LOAD_XBM is its conversion and then the transfer of LOAD_FB (R175,
R179), the conversion writes only the frame buffer (R178) and stands whatever becomes of the transfer (R182), its bits
are source pixels (R180, R183), and buffers that no load admits are refused (R181). -/

namespace Sys2Proof.Machine

/-! ## LOAD_XBM in closed form -/

theorem SameButMem.eq_update {s t : State} (h : SameButMem s t) :
    t = { s with pos := t.pos, acc := t.acc, mem := t.mem } := by
  obtain ⟨hcfg, hparams, hreq, hstatus, hcs, hdc, hport, hin, hcount, htrace, hstream⟩ := h
  cases t
  subst hcfg hparams hreq hstatus hcs hdc hport hin hcount htrace hstream
  rfl

/-- Sending looks neither at the accumulator nor at the caller's memory, and changes neither. -/
theorem SameButMem.afterSending_eq {s t : State} (h : SameButMem s t) (us : List (Tag × List Byte)) :
    t.afterSending us = { s.afterSending us with mem := t.mem, acc := t.acc } := by
  rw [h.eq_update]
  unfold State.afterSending
  cases s.cfg.transport <;> rfl

/-- The bus writes of LOAD_XBM: those of LOAD_FB for the converted frame buffer (44_xbm_converter.md R179). -/
def loadXbmUnits (xbm fb : BufRef) (s : State) : List (Tag × List Byte) :=
  loadUnits s.params s.cfg (dataBytes (some fb) (convert xbm fb s))

/-- LOAD_XBM that nothing refuses sends the converted frame buffer, and keeps the memory and the accumulator of the
conversion (44_xbm_converter.md R175). -/
theorem exec_loadXbm {s : State} (h : s.Ready) {xbm fb : BufRef} (ha : XbmAdmitted s.cfg xbm fb) :
    exec (.loadXbm (some xbm) (some fb)) s = .next { s.afterSending (loadXbmUnits xbm fb s) with
      mem := (convert xbm fb s).mem, acc := (convert xbm fb s).acc } := by
  have hsame := convert_same xbm fb s
  have hlaunch : exec (.loadXbm (some xbm) (some fb)) s = .next (loadFb (some fb) (convert xbm fb s)) :=
    launch_ready h ((checkXbm_eq_none_iff _ _ _).mpr ha) _
  rw [hlaunch, loadFb_eq _ _ (hsame.params ▸ h.err_ne_zero), hsame.params, hsame.cfg, hsame.afterSending_eq]
  rfl

/-- Where LOAD_XBM answers a next state, the block was ready, the buffers were admitted, and the state is the closed
form. -/
theorem exec_loadXbm_next {s t : State} {xbm fb : BufRef} (h : exec (.loadXbm (some xbm) (some fb)) s = .next t) :
    s.Ready ∧ XbmAdmitted s.cfg xbm fb ∧ t = { s.afterSending (loadXbmUnits xbm fb s) with
      mem := (convert xbm fb s).mem, acc := (convert xbm fb s).acc } := by
  obtain ⟨hready, hbufs, _⟩ := exec_next h
  have hadmitted := (checkXbm_eq_none_iff _ _ _).mp hbufs
  rw [exec_loadXbm hready hadmitted] at h
  exact ⟨hready, hadmitted, (Host.Outcome.next.inj h).symm⟩

/-- The data of a finished conversion are the closed form's bytes. -/
theorem ConvertedTo.dataBytes_eq {xbm fb : BufRef} {s t : State} (h : ConvertedTo xbm fb s t (fbSize s.cfg)) :
    dataBytes (some fb) t = (List.range (fbSize s.cfg)).map (s.convertedByte xbm) := by
  rw [dataBytes, h.same.cfg]
  exact List.map_congr_left fun i hi => h.done i (List.mem_range.mp hi)

/-- Settles O19: the closed form of LOAD_XBM, with the image of the conversion as its data. -/
theorem loadXbmConvertsAndSends : Obligations.LoadXbmConvertsAndSends := by
  intro s xbm fb hready hmem hadmitted
  have hconv := convert_spec hmem hready.legalGeometry hadmitted
  refine ⟨_, exec_loadXbm hready hadmitted, hconv.wf, hconv.done, hconv.rest, ?_⟩
  rw [loadXbmUnits, hconv.dataBytes_eq]
  rfl

/-- Settles O40: LOAD_FB reads the same bytes from the memory that the conversion left, and sending looks at no
memory. -/
theorem loadXbmHandsOffToLoadFb : Obligations.LoadXbmHandsOffToLoadFb := by
  intro s t xbm fb hexec
  obtain ⟨hready, hadmitted, rfl⟩ := exec_loadXbm_next hexec
  obtain ⟨_, hfb, _⟩ := hadmitted
  have himage : SameImage (convert xbm fb s) { s with mem := (convert xbm fb s).mem } :=
    ⟨(convert_same xbm fb s).cfg.symm, rfl⟩
  rw [exec_loadFb (s := { s with mem := (convert xbm fb s).mem }) hready ((checkFb_eq_none_iff _ _).mpr hfb),
    himage.dataBytes_eq, afterSending_withMem, ← afterSending_acc (loadXbmUnits xbm fb s) s]
  rfl

/-! ## The frame of the conversion -/

/-- Two states agree on the descriptor and on the byte of memory at one address. -/
structure SameByte (a : Nat) (s t : State) : Prop where
  cfg : t.cfg = s.cfg
  read : Memory.read t.mem a = Memory.read s.mem a

/-- A column changes no byte but its own. -/
theorem SameByte.convertColumn {a : Nat} {s t : State} (h : SameByte a s t) (xbm : BufRef) {fb : BufRef} {p x : Nat}
    (ha : a ≠ fb.base + fbOffset s.cfg p x) : SameByte a s (convertColumn xbm fb p x t) where
  cfg := (convertColumn_same xbm fb p x t).cfg.trans h.cfg
  read := by rw [convertColumn_mem, h.cfg, Memory.read_write_other _ _ _ _ ha, h.read]

/-- The conversion changes no byte outside the frame buffer, in whatever form the memory is given
(44_xbm_converter.md R178). -/
theorem read_convert_outside (xbm : BufRef) {fb : BufRef} {s : State} (hg : legalGeometry s.cfg = true) {a : Nat}
    (ha : ¬ (fb.base ≤ a ∧ a < fb.base + fbSize s.cfg)) :
    Memory.read (convert xbm fb s).mem a = Memory.read s.mem a := by
  have hpage : ∀ t, SameByte a s t → ∀ p ∈ List.range (pages s.cfg), SameByte a s (convertPage xbm fb p t) := by
    intro t ht p hp
    refine List.foldlRecOn _ _ ht fun u hu x hx => hu.convertColumn xbm ?_
    have hoff : p * s.cfg.width + x < fbSize s.cfg :=
      fbSize_eq hg ▸ rowOffset_lt (List.mem_range.mp hp) (ht.cfg ▸ List.mem_range.mp hx)
    rw [fbOffset]
    omega
  exact (List.foldlRecOn _ _ (⟨rfl, rfl⟩ : SameByte a s s) hpage).read

/-- Settles O26: the conversion writes the frame buffer alone, which the source bitmap lies outside of, and the rest is
sending. -/
theorem loadXbmFrame : Obligations.LoadXbmFrame := by
  intro s t xbm fb hexec
  obtain ⟨hready, ⟨hxbm, hfb, happart⟩, rfl⟩ := exec_loadXbm_next hexec
  have hhost := afterSending_host (loadXbmUnits xbm fb s) s
  refine ⟨hhost.cfg, hhost.params, hhost.req, hhost.port, fun a ha => ?_, fun i hi => ?_, afterSending_pins _⟩
  · exact read_convert_outside xbm hready.legalGeometry ha
  · exact read_convert_outside xbm hready.legalGeometry (by omega)

/-! ## The image -/

/-- LOAD_XBM leaves the closed form's byte at every offset of the frame buffer. -/
theorem read_loadXbm {s t : State} {xbm fb : BufRef} (hmem : Memory.wf s.mem)
    (hexec : exec (.loadXbm (some xbm) (some fb)) s = .next t) {i : Nat} (hi : i < fbSize s.cfg) :
    Memory.read t.mem (fb.base + i) = s.convertedByte xbm i := by
  obtain ⟨hready, hadmitted, rfl⟩ := exec_loadXbm_next hexec
  exact (convert_spec hmem hready.legalGeometry hadmitted).done i hi

/-- Settles O41: the image is in memory before the first call of TxSend, which under 3-wire SPI ends the operation. -/
theorem conversionSurvivesFailedTransfer : Obligations.ConversionSurvivesFailedTransfer := by
  intro s t xbm fb hmem hexec
  refine ⟨fun i hi => read_loadXbm hmem hexec hi, fun hspi => ?_⟩
  obtain ⟨_, _, rfl⟩ := exec_loadXbm_next hexec
  rw [afterSending_unsupported _ hspi]
  exact ⟨rfl, rfl, rfl⟩

/-- Bit `b` of the byte at offset `i` is one bit of one byte of the source bitmap (44_xbm_converter.md R183). -/
theorem getLsbD_read_loadXbm {s t : State} {xbm fb : BufRef} (hmem : Memory.wf s.mem)
    (hexec : exec (.loadXbm (some xbm) (some fb)) s = .next t) {i b : Nat} (hi : i < fbSize s.cfg) (hb : b < 8) :
    (Memory.read t.mem (fb.base + i)).getLsbD b =
      (Memory.read s.mem (xbm.base + xbmOffset s.cfg (i / s.cfg.width * 8 + b) (i % s.cfg.width))).getLsbD
        (i % s.cfg.width % 8) := by
  rw [read_loadXbm hmem hexec hi, getLsbD_convertedByte xbm s i hb]
  rfl

/-- Settles O36: a block of eight columns is one byte of a source row. -/
theorem conversionClosedForm : Obligations.ConversionClosedForm := by
  intro s t xbm fb hmem hexec
  refine ⟨fun i b hi hb => getLsbD_read_loadXbm hmem hexec hi hb, fun p j k b hp hj hk hb => ?_⟩
  obtain ⟨hready, _, _⟩ := exec_loadXbm_next hexec
  have hg := hready.legalGeometry
  have hcol : 8 * j + k < s.cfg.width := by
    have hstride := xbmStride_eq hg
    rw [xbmStride] at hstride
    omega
  have hi : p * s.cfg.width + (8 * j + k) < fbSize s.cfg := fbSize_eq hg ▸ rowOffset_lt hp hcol
  have hbyte : (8 * j + k) / 8 = j := by omega
  have hbit : (8 * j + k) % 8 = k := by omega
  rw [Nat.add_assoc (p * _), getLsbD_read_loadXbm hmem hexec hi hb, rowOffset_div hcol, rowOffset_mod hcol, xbmOffset,
    hbyte, hbit]
  rfl

/-- The page and the column of an offset in the frame buffer. -/
theorem fbOffset_bounds {d : Descriptor} (hg : legalGeometry d = true) {i : Nat} (hi : i < fbSize d) :
    i / d.width < pages d ∧ i % d.width < d.width := by
  rw [fbSize_eq hg] at hi
  exact ⟨Nat.div_lt_of_lt_mul (Nat.mul_comm _ _ ▸ hi), Nat.mod_lt i (Nat.pos_of_lt_mul_left hi)⟩

/-- The source byte of a bit of the frame buffer lies inside the source bitmap. -/
theorem sourceOffset_lt {d : Descriptor} (hg : legalGeometry d = true) {i b : Nat} (hi : i < fbSize d) (hb : b < 8) :
    xbmOffset d (i / d.width * 8 + b) (i % d.width) < xbmSize d := by
  obtain ⟨hpage, hcol⟩ := fbOffset_bounds hg hi
  obtain ⟨hbounds, _⟩ := converterStaysInBounds d hg
  obtain ⟨hsource, _⟩ := hbounds _ _ b hpage hcol hb
  exact hsource

/-- Settles O39: each bit of the frame buffer is one bit of the source, and OR works bit by bit. -/
theorem conversionLinearOverOr : Obligations.ConversionLinearOverOr := by
  intro s₁ s₂ s₃ t₁ t₂ t₃ xbm fb hmem₁ hmem₂ hmem₃ hcfg₂ hcfg₃ hexec₁ hexec₂ hexec₃ hor i hi
  obtain ⟨hready, _, _⟩ := exec_loadXbm_next hexec₁
  refine BitVec.eq_of_getLsbD_eq fun b hb => ?_
  rw [BitVec.getLsbD_or, getLsbD_read_loadXbm hmem₁ hexec₁ hi hb,
    getLsbD_read_loadXbm hmem₂ hexec₂ (hcfg₂ ▸ hi) hb, getLsbD_read_loadXbm hmem₃ hexec₃ (hcfg₃ ▸ hi) hb,
    hcfg₂, hcfg₃, hor _ (sourceOffset_lt hready.legalGeometry hi hb), BitVec.getLsbD_or]

/-- Two offsets in rows of equal length are equal exactly when their rows and their places in them are. -/
theorem rowOffset_inj {w r c r' c' : Nat} (hc : c < w) (hc' : c' < w) :
    r * w + c = r' * w + c' ↔ r = r' ∧ c = c' := by
  constructor
  · intro h
    exact ⟨by rw [← rowOffset_div (r := r) hc, h, rowOffset_div hc'],
      by rw [← rowOffset_mod (r := r) hc, h, rowOffset_mod hc']⟩
  · rintro ⟨rfl, rfl⟩
    rfl

/-- The bits of a byte that is zero but, under a condition, for one set bit. -/
theorem getLsbD_ite_single (q : Prop) [Decidable q] (k : Nat) {b : Nat} (hb : b < 8) :
    (if q then 1#8 <<< k else 0).getLsbD b = decide (q ∧ b = k) := by
  split
  · next hq =>
    rw [← BitVec.twoPow_eq, BitVec.getLsbD_twoPow, ← Bool.decide_and]
    exact decide_eq_decide.mpr ⟨fun ⟨_, h⟩ => ⟨hq, h.symm⟩, fun ⟨_, h⟩ => ⟨by omega, h.symm⟩⟩
  · next hq => simp [hq]

/-- Settles O38: bit `b` at offset `i` is the source pixel at row `i / W * 8 + b`, column `i % W`, and that is the one
set pixel for one bit of one byte alone. -/
theorem singlePixelImage : Obligations.SinglePixelImage := by
  intro s t xbm fb r c hmem hexec hr hc hsingle i hi
  obtain ⟨hready, _, _⟩ := exec_loadXbm_next hexec
  have hg := hready.legalGeometry
  have hstride := xbmStride_eq hg
  obtain ⟨_, hcol⟩ := fbOffset_bounds hg hi
  refine BitVec.eq_of_getLsbD_eq fun b hb => ?_
  have hsource : xbmOffset s.cfg (i / s.cfg.width * 8 + b) (i % s.cfg.width) = r * xbmStride s.cfg + c / 8 ↔
      i / s.cfg.width * 8 + b = r ∧ i % s.cfg.width / 8 = c / 8 := rowOffset_inj (by omega) (by omega)
  have htarget : i = r / 8 * s.cfg.width + c ↔ i / s.cfg.width = r / 8 ∧ i % s.cfg.width = c := by
    conv_lhs => lhs; rw [← Nat.div_add_mod' i s.cfg.width]
    exact rowOffset_inj hcol hc
  rw [getLsbD_read_loadXbm hmem hexec hi hb, hsingle _ (sourceOffset_lt hg hi hb),
    getLsbD_ite_single _ _ (Nat.mod_lt _ (by decide)), getLsbD_ite_single _ _ hb, decide_eq_decide, hsource, htarget]
  omega

/-! ## Bad buffers -/

/-- A ready block refuses an operation whose buffers its check refuses, with that refusal. -/
theorem exec_refused_of_bufferCheck {s : State} {e : Refusal} {i : Instr} (h : s.Ready)
    (hc : bufferCheck s.cfg i = some e) : exec i s = .refused e := by
  obtain ⟨hpos, hparams, hgeometry⟩ := h
  obtain ⟨operation, hlaunch⟩ := exec_eq_launch i s
  simp [hlaunch, launch, instanceCheck, hpos, hparams, hgeometry, hc]

theorem checkXbm_short {d : Descriptor} {xbm fb : BufRef} (h : xbm.len < xbmSize d ∨ fb.len < fbSize d) :
    checkXbm d (some xbm) (some fb) = some .shortBuffer := by
  simp [checkXbm, h]

theorem checkXbm_overlapping {d : Descriptor} {xbm fb : BufRef} (hxbm : xbmSize d ≤ xbm.len)
    (hfb : fbSize d ≤ fb.len) (hfirst : xbm.base < fb.base + fb.len) (hsecond : fb.base < xbm.base + xbm.len) :
    checkXbm d (some xbm) (some fb) = some .overlappingBuffers := by
  simp [checkXbm, BufRef.disjoint, hxbm, hfb, hfirst, hsecond]

/-- A LOAD_FB request that is not marked null and names no buffer selects no operation (60_exceptions.md R194). -/
theorem decodeRequest_missingBuffer {r : Request} (hsel : r.sel = 2) (hnull : r.fbNull = false) (hfb : r.fb = none) :
    decodeRequest r = .error .missingBuffer := by
  simp [decodeRequest, hsel, hnull, hfb]

/-- Settles O44: each clause is the buffers' check, and a missing buffer is refused before there is an operation to
check. -/
theorem badBuffersRefused : Obligations.BadBuffersRefused := by
  constructor
  · intro s xbm fb buf hready
    have hnull : checkXbm s.cfg buf none = some .nullBuffer := by cases buf <;> rfl
    refine ⟨exec_refused_of_bufferCheck hready rfl, exec_refused_of_bufferCheck hready hnull,
      ⟨_, exec_loadFb hready rfl⟩, fun hshort => ?_, fun hshort => ?_, fun hxbm hfb hfirst hsecond => ?_⟩
    · exact exec_refused_of_bufferCheck hready (if_pos hshort)
    · exact exec_refused_of_bufferCheck hready (checkXbm_short hshort)
    · exact exec_refused_of_bufferCheck hready (checkXbm_overlapping hxbm hfb hfirst hsecond)
  · intro s r rest hpos hport hsel hnull hfb
    have hdec := decodeRequest_missingBuffer hsel hnull hfb
    obtain hport | hport := hport
    · simp [step_idle hpos hport, accept, hdec, refusalOf]
    · simp [step_idle hpos hport, accept, startRequest, hdec, refusalOf]

end Sys2Proof.Machine
end

section
/-! The idle block between two things the host presents (45_sequencing_memory_system_classes.md R250): with an empty
port it waits, and a pass only leaves the port. -/

namespace Sys2Proof.Machine

/-- An idle block with an empty port waits. -/
theorem step_idle_of_port_nil {s : State} (hpos : s.pos = .idle) (hport : s.port = []) : step s = .next s := by
  unfold step advance
  rw [hpos, hport]

@[simp] theorem accept_pass (s : State) : accept .pass s = .next s := rfl

/-- Settles O49: an empty port leaves the block waiting, and a pass is taken from the port without effect. -/
theorem idleBlockWaits : Obligations.IdleBlockWaits := by
  intro s hpos
  refine ⟨step_idle_of_port_nil hpos, fun rest hport => ?_⟩
  rw [step_idle hpos hport, accept_pass]

end Sys2Proof.Machine
end

section
/-! The exceptions family (60_exceptions.md): a busy block refuses what is presented (R208), no step from a state that
meets the invariant faults (R190, R194), the first failing bus write ends an operation (R192, R196, R197), and what an
operation does depends on nothing an earlier one left behind (R199). -/

namespace Sys2Proof.Machine

/-! ## The busy block -/

/-- Inside an operation anything presented but a reset is refused; a pass presents nothing (60_exceptions.md R208). -/
theorem step_refused_of_busy {s : State} {e : HostEvent} {rest : List HostEvent} (hpos : s.pos ≠ .idle)
    (hport : s.port = e :: rest) (hreset : e ≠ .reset) (hpass : e ≠ .pass) : step s = .refused .busy := by
  unfold step advance
  rw [hport]
  cases hp : s.pos with
  | idle => exact absurd hp hpos
  | _ =>
    cases e with
    | reset => exact absurd rfl hreset
    | pass => exact absurd rfl hpass
    | _ => rfl

/-- Settles O42: every operation is launched, and the launch asks first whether the block is idle. -/
theorem busyBlockRefuses : Obligations.BusyBlockRefuses := by
  refine ⟨fun i s hpos => ?_, fun s e rest hpos hport => step_refused_of_busy hpos hport⟩
  obtain ⟨operation, hlaunch⟩ := exec_eq_launch i s
  rw [hlaunch, launch, if_pos hpos]

/-! ## Faults -/

theorem accept_no_fault (e : HostEvent) (s : State) (f : Fault) : accept e s ≠ .fault f := by
  cases e with
  | request r =>
    rw [accept]
    split
    · nofun
    · exact exec_no_fault _ _ f
  | start r =>
    rw [accept, startRequest]
    split
    · nofun
    · split <;> nofun
  | _ => nofun

/-- A position at one of the operation's transfers, or inside its frame, has a rest of transfers still to be made. -/
theorem Latched.standsAt {i : Instr} {t : Transfer} {s : State} (hl : Latched i s) (ht : t ∈ operationTransfers i s)
    (hbase : s.pos.base = t.pos) : ∃ rest, StandsAt i t rest s := by
  obtain ⟨pre, rest, hsplit⟩ := List.append_of_mem ht
  exact ⟨rest, hl, ⟨pre, hsplit.symm⟩, hbase⟩

/-- From every position of the latched operation there is a move of the sequencer (10_state.md R22). -/
theorem Latched.exists_moves {i : Instr} {s : State} (hl : Latched i s) (h : HasPosition i s) :
    ∃ u, Moves i s u := by
  obtain ⟨t, ht, hpos | ⟨hspi, line, hpos⟩⟩ | ⟨xbm, fb, p, x, b, hi, hpos, hp, hx, hb⟩ := h
  · obtain ⟨rest, hat⟩ := hl.standsAt ht (hpos ▸ Pos.base_of_isTransfer (operationTransfers_isTransfer ht))
    by_cases hspi : s.cfg.transport = .spi4
    · exact ⟨_, .line t rest hat hspi rfl⟩
    · exact ⟨_, .send t rest hat hspi hpos.symm rfl⟩
  · obtain ⟨rest, hat⟩ := hl.standsAt ht (hpos ▸ rfl)
    exact ⟨_, .line t rest hat hspi rfl⟩
  · exact ⟨_, .bit xbm fb p x b hi hpos hp hx hb rfl⟩

/-- Where the sequencer is coherent and an operation is in progress, a move is made. -/
theorem State.Coherent.exists_tick {s : State} (h : s.Coherent) (hpos : s.pos ≠ .idle) : ∃ u, tick s = .next u := by
  obtain hidle | ⟨i, hdec, hcheck, hat⟩ := h
  · exact absurd hidle hpos
  · have hl : Latched i s := ⟨hdec, hcheck⟩
    obtain ⟨u, hmoves⟩ := hl.exists_moves hat
    exact ⟨u, tick_of_moves hl hmoves⟩

/-- A reset event is taken at any position (70_reset_and_hazards.md R220). -/
theorem step_reset {s : State} {rest : List HostEvent} (hport : s.port = .reset :: rest) :
    step s = .next (State.resetEvent { s with port := rest }) := by
  unfold step advance
  rw [hport]

/-- Settles O53: an idle block accepts or refuses, and inside an operation the invariant leaves a move to be made. -/
theorem invariantRulesOutFaults : Obligations.InvariantRulesOutFaults := by
  intro s f hinv
  obtain ⟨_, _, hcoherent⟩ := hinv
  by_cases hpos : s.pos = .idle
  · cases hport : s.port with
    | nil => exact step_idle_of_port_nil hpos hport ▸ nofun
    | cons e rest => rw [step_idle hpos hport]; exact accept_no_fault e _ f
  · obtain ⟨u, htick⟩ := hcoherent.exists_tick hpos
    cases hport : s.port with
    | nil => rw [step_busy hpos hport, htick]; nofun
    | cons e rest =>
      by_cases hreset : e = .reset
      · exact step_reset (hreset ▸ hport) ▸ nofun
      by_cases hpass : e = .pass
      · rw [step_pass hpos (hpass ▸ hport), tick_withPort htick]; nofun
      · rw [step_refused_of_busy hpos hport hreset hpass]; nofun

/-! ## The first failing write -/

theorem State.busFailsAt_zero {s : State} {st : Status} :
    s.BusFailsAt 0 st ↔ (s.answerAt 0).status = st ∧ st ≠ 0 :=
  and_iff_right fun k hk => absurd hk (Nat.not_lt_zero k)

/-- The driver fails a later write when it accepts the first one and, after it, fails the write before. -/
theorem State.busFailsAt_succ (u : Tag × List Byte) (s : State) (k : Nat) (st : Status) :
    s.BusFailsAt (k + 1) st ↔ (s.answerAt 0).status = 0 ∧ (afterOne u s).BusFailsAt k st := by
  have hans : (afterOne u s).answerAt k = s.answerAt (k + 1) := State.answerAt_succ rfl rfl k
  rw [State.BusFailsAt, State.BusFailsAt, State.busAccepts_succ u, hans, and_assoc]

/-- A driver that does not accept all of the next writes fails a first one. -/
theorem State.exists_busFailsAt {s : State} {n : Nat} (h : ¬ s.BusAccepts n) :
    ∃ k < n, ∃ st, s.BusFailsAt k st := by
  have hex : ∃ k, k < n ∧ (s.answerAt k).status ≠ 0 := by simpa [State.BusAccepts] using h
  obtain ⟨hlt, hst⟩ := Nat.find_spec hex
  refine ⟨Nat.find hex, hlt, _, fun k hk => ?_, rfl, hst⟩
  by_contra hne
  exact Nat.find_min hex hk ⟨hk.trans hlt, hne⟩

/-- A run that reaches the first failing write ends there, with its status (60_exceptions.md R197). -/
theorem runTransfers_of_busFailsAt {ts : List Transfer} {s : State} {k : Nat} {st : Status}
    (h : s.cfg.transport ≠ .spi3) (hfail : s.BusFailsAt k st) (hk : k < ts.length) :
    (runTransfers ts s).status = some st ∧ (runTransfers ts s).busCount = s.busCount + k + 1 := by
  induction ts generalizing s k with
  | nil => exact absurd hk (Nat.not_lt_zero k)
  | cons t ts ih =>
    rw [runTransfers_cons t ts s h]
    cases k with
    | zero =>
      obtain ⟨rfl, hst⟩ := State.busFailsAt_zero.mp hfail
      rw [if_neg hst]
      exact ⟨rfl, rfl⟩
    | succ k =>
      obtain ⟨h0, hrest⟩ := (State.busFailsAt_succ (t.tag, t.bytes) s k st).mp hfail
      have hend := ih (s := { afterOne (t.tag, t.bytes) s with pos := t.pos }) h hrest (Nat.lt_of_succ_lt_succ hk)
      rw [if_pos h0, hend.1, hend.2]
      exact ⟨rfl, by simp only [afterOne]; omega⟩

/-- A run that made more writes than the driver accepts was ended by the first failing one. -/
theorem runTransfers_of_reached {ts : List Transfer} {s : State} {k : Nat} {st : Status}
    (h : s.cfg.transport ≠ .spi3) (hfail : s.BusFailsAt k st)
    (hreached : s.busCount + k < (runTransfers ts s).busCount) :
    (runTransfers ts s).status = some st ∧ (runTransfers ts s).busCount = s.busCount + k + 1 := by
  refine runTransfers_of_busFailsAt h hfail ?_
  by_contra hlen
  have hall : s.BusAccepts ts.length := fun j hj => hfail.1 j (by omega)
  rw [runTransfers_busCount ts s h hall] at hreached
  omega

/-- A run all of whose writes were accepted succeeds (60_exceptions.md R192). -/
theorem runTransfers_of_accepted {ts : List Transfer} {s : State} (h : s.cfg.transport ≠ .spi3)
    (ha : s.BusAccepts ((runTransfers ts s).busCount - s.busCount)) : (runTransfers ts s).status = some 0 := by
  rw [runTransfers_status_zero_iff ts s h]
  by_contra hall
  obtain ⟨k, hk, st, hfail⟩ := State.exists_busFailsAt hall
  obtain ⟨_, hcount⟩ := runTransfers_of_busFailsAt h hfail hk
  obtain ⟨_, hst, hne⟩ := hfail
  exact hne (hst ▸ ha k (by omega))

/-- An operation is a run of transfers before which no bus write is made. -/
theorem exists_run_of_exec {i : Instr} {s t : State} (h : exec i s = .next t) :
    ∃ ts u, t = runTransfers ts u ∧ u.cfg = s.cfg ∧ u.busCount = s.busCount ∧
      ∀ k, u.answerAt k = s.answerAt k := by
  obtain ⟨_, _, rfl⟩ := exec_next h
  have hsame := prepared_same i s
  refine ⟨_, prepared i s, rfl, hsame.cfg, hsame.busCount, fun k => ?_⟩
  rw [State.answerAt, State.answerAt, hsame.busIn, hsame.busCount]

/-- Settles O22: an operation is a run of transfers, which the first failing write ends. -/
theorem firstFailingWriteEndsOperation : Obligations.FirstFailingWriteEndsOperation := by
  constructor
  · intro i s t k st hspi hexec hfail hreached
    obtain ⟨ts, u, rfl, hcfg, hcount, hans⟩ := exists_run_of_exec hexec
    have hfail' : u.BusFailsAt k st := by simpa only [State.BusFailsAt, State.BusAccepts, hans] using hfail
    rw [← hcount] at hreached ⊢
    exact runTransfers_of_reached (hcfg ▸ hspi) hfail' hreached
  · intro i s t hspi hexec haccepts
    obtain ⟨ts, u, rfl, hcfg, hcount, hans⟩ := exists_run_of_exec hexec
    refine runTransfers_of_accepted (hcfg ▸ hspi) ?_
    simpa only [State.BusAccepts, hans, hcount] using haccepts

/-! ## What an operation depends on -/

/-- Two states agree on everything an operation looks at once it is launched: the descriptor, the parameters, the
caller's memory and the bus driver's coming answers. -/
structure SameInputs (s t : State) : Prop where
  cfg : t.cfg = s.cfg
  params : t.params = s.params
  mem : t.mem = s.mem
  busIn : t.busIn = s.busIn
  busCount : t.busCount = s.busCount

/-- The block went from `s` to `s'` and from `t` to `t'` with the same status, memory and number of writes, and added
the same events and bytes to the outputs. -/
def EndsAlike (s t s' t' : State) : Prop :=
  ∃ (events : List Event) (bytes : List TaggedByte),
    t'.status = s'.status ∧ t'.mem = s'.mem ∧ t'.busCount = s'.busCount ∧
    s'.trace = s.trace ++ events ∧ t'.trace = t.trace ++ events ∧
    s'.stream = s.stream ++ bytes ∧ t'.stream = t.stream ++ bytes

section
variable {s t : State}

theorem SameInputs.prepared (h : SameInputs s t) (i : Instr) : SameInputs (prepared i s) (prepared i t) where
  cfg := ((SameImage.mk h.cfg h.mem).prepared i).cfg
  mem := ((SameImage.mk h.cfg h.mem).prepared i).mem
  params := by rw [(prepared_same i t).params, (prepared_same i s).params, h.params]
  busIn := by rw [(prepared_same i t).busIn, (prepared_same i s).busIn, h.busIn]
  busCount := by rw [(prepared_same i t).busCount, (prepared_same i s).busCount, h.busCount]

theorem SameInputs.operationTransfers_eq (h : SameInputs s t) (i : Instr) :
    operationTransfers i t = operationTransfers i s :=
  operationTransfers_congr i h.cfg h.params h.mem

/-- Sending reads none of the other fields. -/
theorem SameInputs.afterSending (h : SameInputs s t) (us : List (Tag × List Byte)) :
    EndsAlike s t (s.afterSending us) (t.afterSending us) := by
  obtain ⟨hcfg, hparams, hmem, hin, hcount⟩ := h
  cases t
  subst hcfg hparams hmem hin hcount
  unfold EndsAlike State.afterSending
  cases s.cfg.transport with
  | spi3 => exact ⟨[], [], rfl, rfl, rfl, by simp, by simp, by simp, by simp⟩
  | _ => exact ⟨_, _, rfl, rfl, rfl, rfl, rfl, rfl, rfl⟩

/-- Two runs of an operation with the same inputs end alike. -/
theorem SameInputs.operationOf (h : SameInputs s t) (i : Instr) (he : s.params.errUnsupported ≠ 0) :
    EndsAlike s t (operationOf i s) (operationOf i t) := by
  have hprep := h.prepared i
  have hs := prepared_same i s
  have ht := prepared_same i t
  have hend := hprep.afterSending (unitsOf (operationTransfers i (Machine.prepared i s)))
  rw [EndsAlike, hs.trace, hs.stream, ht.trace, ht.stream] at hend
  rw [operationOf_eq i s he, operationOf_eq i t (h.params ▸ he), hprep.operationTransfers_eq]
  exact hend

end

/-- Settles O24: the fields an earlier operation leaves behind are no inputs of an operation. -/
theorem nothingCarriesBetweenOperations : Obligations.NothingCarriesBetweenOperations := by
  intro i s t req status cs dc acc port trace stream hexec
  obtain ⟨hready, hbuffers, rfl⟩ := exec_next hexec
  have hinputs : SameInputs s { s with
    req := req, status := status, cs := cs, dc := dc, acc := acc, port := port, trace := trace,
    stream := stream } := ⟨rfl, rfl, rfl, rfl, rfl⟩
  obtain ⟨events, bytes, hend⟩ := hinputs.operationOf i hready.err_ne_zero
  exact ⟨_, events, bytes, exec_ready hready hbuffers, hend⟩

end Sys2Proof.Machine
end

section
/-! The reset event (70_reset_and_hazards.md R220): it abandons the operation at whatever position the sequencer stands,
inside a chip-select frame too, which under 4-wire SPI an operation that begins with a transfer enters in its first two
moves (40_transport_encoder.md R102). -/

namespace Sys2Proof.Machine

/-- Settles O47: a reset event is taken at any position. -/
theorem resetEventAbandonsOperation : Obligations.ResetEventAbandonsOperation :=
  fun _ _ => step_reset

/-- After `n` steps the last one of `n + 1` is still to be made. -/
theorem steps_succ_of_steps {n : Nat} {s u : State} (h : steps n s = .next u) : steps (n + 1) s = step u := by
  induction n generalizing s with
  | zero =>
    cases h
    rw [steps]
    cases step u <;> rfl
  | succ n ih =>
    rw [steps] at h ⊢
    cases hstep : step s with
    | next t =>
      rw [hstep] at h
      exact ih h
    | _ => simp [hstep] at h

/-- A latched operation that does not convert begins at its first transfer. -/
theorem Latched.exists_standsAt_begin {i : Instr} {s : State} (hl : Latched i s)
    (hconv : ∀ xbm fb, i ≠ .loadXbm xbm fb) :
    ∃ t rest, StandsAt i t rest (beginOperation i s) ∧ (beginOperation i s).pos = t.pos := by
  obtain ⟨xbm, fb, hi⟩ | ⟨hstart, _⟩ := hl.start_cases
  · exact absurd hi (hconv _ _)
  have hl' : Latched i (beginOperation i s) := hl.congr ⟨rfl, rfl, rfl, rfl⟩
  obtain ⟨t, ht, hpos⟩ := exists_transfer_at_firstPos i s
  have hbegin : (beginOperation i s).pos = t.pos := hstart.trans hpos.symm
  rw [← operationTransfers_congr i (s := s) (t := beginOperation i s) rfl rfl rfl] at ht
  have hbase : (beginOperation i s).pos.base = t.pos := by
    rw [hbegin, Pos.base_of_isTransfer (operationTransfers_isTransfer ht)]
  obtain ⟨rest, hat⟩ := hl'.standsAt ht hbase
  exact ⟨t, rest, hat, hbegin⟩

/-- The frame of the transfer `t` is open: both pins are driven, and nothing is written yet
(40_transport_encoder.md R102). -/
def openFrame (t : Transfer) (s : State) : State :=
  { (s.driveDc (tagLevel t.tag)).driveCs .asserted with pos := .frame t.pos .selected }

/-- Under 4-wire SPI the first two moves at a transfer open its frame. -/
theorem StandsAt.ticks_open_frame {i : Instr} {t : Transfer} {rest : List Transfer} {s : State}
    (h : StandsAt i t rest s) (hspi : s.cfg.transport = .spi4) (hpos : s.pos = t.pos) :
    ticks 2 s = .next (openFrame t s) := by
  have hline : s.pos.frameLine = none := by rw [hpos, Pos.frameLine_of_isTransfer h.isTransfer]
  have hdriven : StandsAt i t rest (tickFrame t.pos t rest s none) := h.congr ⟨rfl, rfl, rfl, rfl⟩ rfl rfl
  exact ticks_succ.mpr ⟨_, hline ▸ h.tick_frame hspi, ticks_succ.mpr ⟨_, hdriven.tick_frame hspi, rfl⟩⟩

/-- Settles O60: the request to start and two passes open the frame of the first transfer, and the reset is taken
there. -/
theorem resetReachesInsideFrame : Obligations.ResetReachesInsideFrame := by
  intro s r rest i ⟨hidle, hparams, hgeometry⟩ hspi hdec hbuffers hconv hport
  have hl : Latched i { s with req := r } := ⟨hdec, (checks_eq_none_iff s _).mpr ⟨hparams, hgeometry, hbuffers⟩⟩
  have hstart := stepInsideOperationIsTick.1 s r _ i hidle hport hdec hl.admitted
  obtain ⟨t, _, hat, hpos⟩ := hl.exists_standsAt_begin hconv
  have hopen := steps_of_ticks (hat.ticks_open_frame hspi hpos) (.reset :: rest)
  rw [← beginOperation_withPort] at hopen
  have hthree : steps 3 s = .next { openFrame t (beginOperation i { s with req := r }) with
      port := .reset :: rest } := by
    rw [steps, hstart]
    exact hopen
  exact ⟨_, hthree, rfl, nofun, rfl, rfl, (steps_succ_of_steps hthree).trans (step_reset (rest := rest) rfl)⟩

end Sys2Proof.Machine
end
